-- ==== Sys2Proof/Word.lean ====
section
/-! DEFINITION. The widths of 00_scope.md R6 as types, and the closed lists of names the spec uses
for registers, control lines, modes, statuses and refusal reasons. -/

namespace Sys2Proof

/-- One byte of a bus transfer (R81). -/
abbrev Byte := BitVec 8

/-- A shadow register, a wire word, a mask (`SH_BITS = WIRE_BITS = 32`, R6). -/
abbrev Word32 := BitVec 32

/-- The payload field of the wire word (`PAYLOAD_BITS = 28`, R6). -/
abbrev Payload := BitVec 28

/-- A device register address (`ADDR_BITS = 4`, R6). -/
abbrev Address := BitVec 4

/-- The packed command word `CW` (R64). -/
abbrev CommandWord := BitVec 48

/-- The ten register names in the order of R21. -/
inductive RegName where
  | conf1 | conf2 | conf3 | pllconf | div | fdiv | strm | clk | test1 | test2
  deriving DecidableEq, Repr

/-- The ten names in index order, 0 to 9 (R21). -/
def RegName.all : List RegName :=
  [.conf1, .conf2, .conf3, .pllconf, .div, .fdiv, .strm, .clk, .test1, .test2]

/-- The three control lines of the front-end device (R24). -/
inductive Line where
  | pgm | shdn | idle
  deriving DecidableEq, Repr

/-- The mode a NOTICE names (R14, R102). -/
inductive AntMode where
  | auto | patch | external
  deriving DecidableEq, Repr

/-- The status `s` of `DONE(s)` (R120); its number is `Machine.statusCode`. -/
inductive Status where
  | failure | success
  deriving DecidableEq, Repr

/-- The closed list of refusal reasons (R122). -/
inductive Reason where
  | rsvdOp | rsvdBits | phaseWr | phaseInit | phaseHook | phaseAnt
  deriving DecidableEq, Repr

end Sys2Proof
end

