-- ==== Sys2Proof/Config.lean ====
section
/-! DEFINITION. The parameters of 00_scope.md R6, their well-formedness (R7), the values the spec
decides, and the free values that stand for what it leaves OPEN. -/

namespace Sys2Proof

/-- The device id passed to select (R6 `DEV_FE`, "symbolic"). DESIGN CHOICE (log 7): a bare token. -/
structure DeviceId where
  token : Nat
  deriving DecidableEq, Repr, Inhabited

/-- The bus id passed to transfer-byte (R6 `BUS_FE`, "symbolic"). DESIGN CHOICE (log 7). -/
structure BusId where
  token : Nat
  deriving DecidableEq, Repr, Inhabited

/-- A pull setting of a control line (R6 `PULL_*`, "symbolic"). DESIGN CHOICE (log 7). -/
structure Pull where
  token : Nat
  deriving DecidableEq, Repr, Inhabited

/-- The parameter `ADDR`: one 4-bit device address per register name (R6, R21). -/
structure AddrMap where
  conf1 : Address
  conf2 : Address
  conf3 : Address
  pllconf : Address
  div : Address
  fdiv : Address
  strm : Address
  clk : Address
  test1 : Address
  test2 : Address
  deriving DecidableEq, Repr

/-- `ADDR[r]`. -/
def AddrMap.get (m : AddrMap) : RegName → Address
  | .conf1 => m.conf1
  | .conf2 => m.conf2
  | .conf3 => m.conf3
  | .pllconf => m.pllconf
  | .div => m.div
  | .fdiv => m.fdiv
  | .strm => m.strm
  | .clk => m.clk
  | .test1 => m.test1
  | .test2 => m.test2

/-- A parameter assignment (R6): fixed before reset, changed by no step. -/
structure Params where
  addr : AddrMap
  lnaMask : Word32
  lnaGated : Word32
  lnaIn1 : Word32
  lnaIn2 : Word32
  initConf1 : Word32
  initConf2 : Word32
  initConf3 : Word32
  initPllconf : Word32
  initDiv : Word32
  initFdiv : Word32
  initClk : Word32
  devFe : DeviceId
  busFe : BusId
  pullPgm : Pull
  pullShdn : Pull
  pullIdle : Pull
  modelNotice : Bool
  deriving DecidableEq, Repr

/-- `PULL_PGM`, `PULL_SHDN`, `PULL_IDLE` (R6). -/
def Params.pull (p : Params) : Line → Pull
  | .pgm => p.pullPgm
  | .shdn => p.pullShdn
  | .idle => p.pullIdle

/-- R7 (W1): the ten addresses are pairwise distinct. -/
abbrev Params.W1 (p : Params) : Prop := (RegName.all.map p.addr.get).Nodup

/-- R7 (W2): every mode pattern lies inside the mask. -/
abbrev Params.W2 (p : Params) : Prop :=
  p.lnaGated &&& ~~~p.lnaMask = 0#32 ∧ p.lnaIn1 &&& ~~~p.lnaMask = 0#32 ∧
    p.lnaIn2 &&& ~~~p.lnaMask = 0#32

/-- R7 (W3): the three mode patterns are pairwise distinct. -/
abbrev Params.W3 (p : Params) : Prop :=
  p.lnaGated ≠ p.lnaIn1 ∧ p.lnaGated ≠ p.lnaIn2 ∧ p.lnaIn1 ≠ p.lnaIn2

/-- R7 (W4): INIT composes CONF1 in gated mode. -/
abbrev Params.W4 (p : Params) : Prop := p.initConf1 &&& p.lnaMask = p.lnaGated

/-- R7 (W5): the mask is not zero. -/
abbrev Params.W5 (p : Params) : Prop := p.lnaMask ≠ 0#32

/-- R7: a well-formed parameter assignment. -/
abbrev Params.WellFormed (p : Params) : Prop := p.W1 ∧ p.W2 ∧ p.W3 ∧ p.W4 ∧ p.W5

namespace Config

/-- The decided `ADDR` (R6, R21; D1): the position in the list of R21. -/
def decidedAddr : AddrMap where
  conf1 := 0
  conf2 := 1
  conf3 := 2
  pllconf := 3
  div := 4
  fdiv := 5
  strm := 6
  clk := 7
  test1 := 8
  test2 := 9

/-- `SEL_AUTO` (R6; D9). -/
def selAuto : Nat := 0
/-- `SEL_PATCH` (R6; D9). -/
def selPatch : Nat := 1
/-- `SEL_EXTERNAL` (R6; D9). -/
def selExternal : Nat := 2

/-- `NAME_AUTO` (R6). -/
def nameAuto : String := "Auto"
/-- `NAME_PATCH` (R6). -/
def namePatch : String := "Patch"
/-- `NAME_EXTERNAL` (R6). -/
def nameExternal : String := "External"
/-- `SETTING_GROUP` (R6). -/
def settingGroup : String := "frontend"
/-- `SETTING_NAME` (R6). -/
def settingName : String := "antenna_selection"

/-- `LNA_MASK`: OPEN (R6; D12). Free value (log 4). -/
opaque lnaMask : Word32
/-- `LNA_GATED`: OPEN (R6; D12). Free value (log 4). -/
opaque lnaGated : Word32
/-- `LNA_IN1`: OPEN (R6; D12). Free value (log 4). -/
opaque lnaIn1 : Word32
/-- `LNA_IN2`: OPEN (R6; D12). Free value (log 4). -/
opaque lnaIn2 : Word32
/-- `INIT_CONF1`: OPEN (R6; D13). Free value (log 4). -/
opaque initConf1 : Word32
/-- `INIT_CONF2`: OPEN (R6; D13). Free value (log 4). -/
opaque initConf2 : Word32
/-- `INIT_CONF3`: OPEN (R6; D13). Free value (log 4). -/
opaque initConf3 : Word32
/-- `INIT_PLLCONF`: OPEN (R6; D13). Free value (log 4). -/
opaque initPllconf : Word32
/-- `INIT_DIV`: OPEN (R6; D13). Free value (log 4). -/
opaque initDiv : Word32
/-- `INIT_FDIV`: OPEN (R6; D13). Free value (log 4). -/
opaque initFdiv : Word32
/-- `INIT_CLK`: OPEN (R6; D13). Free value (log 4). -/
opaque initClk : Word32
/-- `DEV_FE`: OPEN (R6; D22). Free value (log 4). -/
opaque devFe : DeviceId
/-- `BUS_FE`: OPEN (R6; D22). Free value (log 4). -/
opaque busFe : BusId
/-- `PULL_PGM`: OPEN (R6; D14). Free value (log 4). -/
opaque pullPgm : Pull
/-- `PULL_SHDN`: OPEN (R6; D14). Free value (log 4). -/
opaque pullShdn : Pull
/-- `PULL_IDLE`: OPEN (R6; D14). Free value (log 4). -/
opaque pullIdle : Pull

/-- `HOST.ant_sel` before the first successful parse: "not stated" (R33, N12). Free value (log 11). -/
opaque antSelAtStart : Nat

/-- The assignment the machine starts with: the decided values of R6 (`ADDR`, log 6; `MODEL_NOTICE`,
"default true", log 5) and a free value for every OPEN parameter (log 4). -/
def params : Params where
  addr := decidedAddr
  lnaMask := lnaMask
  lnaGated := lnaGated
  lnaIn1 := lnaIn1
  lnaIn2 := lnaIn2
  initConf1 := initConf1
  initConf2 := initConf2
  initConf3 := initConf3
  initPllconf := initPllconf
  initDiv := initDiv
  initFdiv := initFdiv
  initClk := initClk
  devFe := devFe
  busFe := busFe
  pullPgm := pullPgm
  pullShdn := pullShdn
  pullIdle := pullIdle
  modelNotice := true

end Config

end Sys2Proof
end

