-- ==== Sys2Proof/Syntax.lean ====
section
/-! DEFINITION. The command set (R66) and the pseudo-instructions (R74): one constructor per row of
spec/opcode_table.json. Operands are those of the abstract view, which is the normative one (R64,
R65): `a`, `p` and `sel` are any natural numbers. -/

namespace Sys2Proof

/-- A command, or a pseudo-instruction that stands for commands. -/
inductive Instr where
  /-- `WR a, p` (R84). -/
  | wr (a p : Nat)
  /-- `INIT` (R90). -/
  | init
  /-- `HOOK` (R95). -/
  | hook
  /-- `ANT ok, sel` (R100). -/
  | ant (ok : Bool) (sel : Nat)
  /-- `ANTS "<candidate>"` (R74 (1)); pseudo. -/
  | ants (candidate : String)
  /-- `WR <name>, p` (R74 (2)); pseudo, the table's row `WR__name`. -/
  | wrName (r : RegName) (p : Nat)
  /-- `BOOT` (R74 (3)); pseudo. -/
  | boot
  deriving DecidableEq, Repr

/-- The four commands of R66; the others are pseudo-instructions (R74, R75). -/
def Instr.isCommand : Instr → Bool
  | .wr _ _ => true
  | .init => true
  | .hook => true
  | .ant _ _ => true
  | .ants _ => false
  | .wrName _ _ => false
  | .boot => false

end Sys2Proof
end

