-- ==== Sys2Proof/Machine/State.lean ====
section
/-! DEFINITION. The machine's state (10_state.md) as plain data, the events it emits (R14), the
outcomes of commands (R13), the reasons a step can stop, and the state right after power-up (R33). -/

namespace Sys2Proof.Machine

/-- The ten shadow registers (R20, R21). `none` is the spec's own value *unwritten*. -/
structure Shadows where
  conf1 : Option Word32
  conf2 : Option Word32
  conf3 : Option Word32
  pllconf : Option Word32
  div : Option Word32
  fdiv : Option Word32
  strm : Option Word32
  clk : Option Word32
  test1 : Option Word32
  test2 : Option Word32
  deriving DecidableEq, Repr

/-- All ten shadows unwritten (R33). -/
def Shadows.unwritten : Shadows :=
  ⟨none, none, none, none, none, none, none, none, none, none⟩

/-- `phase` (R23): `P_RESET`, `P_INIT`, `P_READY`. -/
inductive Phase where
  | reset | init | ready
  deriving DecidableEq, Repr

/-- The level RWE drives on a control line (R24): unconfigured, 0 or 1. -/
inductive PinLevel where
  | unconfigured | low | high
  deriving DecidableEq, Repr

/-- `PIN` (R24). -/
structure Pins where
  pgm : PinLevel
  shdn : PinLevel
  idle : PinLevel
  deriving DecidableEq, Repr

/-- All three lines unconfigured (R33). -/
def Pins.unconfigured : Pins := ⟨.unconfigured, .unconfigured, .unconfigured⟩

/-- `LASTTX` (R25): per device address, none or the payload last sent there. -/
abbrev LastTx := Vector (Option Payload) 16

/-- The event alphabet (R14). -/
inductive Event where
  | gpioCfg (line : Line) (pull : Pull)
  | gpioSet (line : Line)
  | gpioClr (line : Line)
  | sel (dev : DeviceId)
  | xfer (bus : BusId) (b : Byte)
  | desel
  | regSetting (group name : String) (domain : List String)
  | notice (mode : AntMode)
  | done (s : Status)
  deriving DecidableEq, Repr

/-- The outcome of a presented command that was not stuck (R13). -/
inductive CmdOutcome where
  | completed (s : Status)
  | refused (r : Reason)
  deriving DecidableEq, Repr

/-- What the host presents at a command boundary (R64, R152): a packed command word, an abstract
command, or the reset input (R140). -/
inductive HostInput where
  | word (cw : CommandWord)
  | command (i : Instr)
  | reset
  deriving DecidableEq, Repr

/-- What a presented input asks for once it has been decoded (R67, R121, R140). -/
inductive Request where
  | run (i : Instr)
  | reject (r : Reason)
  | powerUp
  deriving DecidableEq, Repr

/-- The machine. `sh`, `phase`, `pin`, `lastTx` and `trace` are the state of 10_state.md; `params`,
`pending` and `antSel` are what the spec gives the surroundings (log 3, 11, 14); `outcomes` and
`stallAfter` are the model's own (log 2, 8). -/
structure State where
  /-- `SH` (R20). -/
  sh : Shadows
  /-- `phase` (R23). -/
  phase : Phase
  /-- `PIN` (R24). -/
  pin : Pins
  /-- `LASTTX` (R25), a ghost no command reads. -/
  lastTx : LastTx
  /-- The trace (R31), oldest event first. -/
  trace : List Event
  /-- The parameter assignment (R6), written by no step. -/
  params : Params
  /-- What the host still has to present, next first (R26). -/
  pending : List HostInput
  /-- `HOST.ant_sel` (R29). -/
  antSel : Nat
  /-- One entry per command presented so far, oldest first (R13). -/
  outcomes : List CmdOutcome
  /-- How many more events the services accept; `none`: every one (R129). -/
  stallAfter : Option Nat
  deriving DecidableEq, Repr

/-- Why a step has no successor. -/
inductive Fault where
  /-- A service never accepts event `e`: the command is stuck (R129, U5). Raised by `emit` alone.
  Safe: the model stops where the block hangs. -/
  | stuck (e : Event)
  /-- A read of a shadow that holds no value: "no value; a read would be a `fault`, and no admitted
  command performs one" (93_implementation_defined.md U15; R22, R33). Raised by `readShadow` alone, in
  states no run reaches. Safe. -/
  | unwrittenShadow (r : RegName)
  deriving DecidableEq, Repr

/-- Why a step gives an instruction no meaning. The spec's own refusals (R122) are not among these:
they are next states that record a `Reason` (log 1). -/
inductive Refusal where
  /-- An arm of `exec` without a meaning. Raised by no arm: every instruction has its meaning. Safe. -/
  | notModelled (mnemonic : String)
  deriving DecidableEq, Repr

/-- The state right after power-up (R33, R140) at the start of observation, under assignment `p`,
with the host's cell holding `sel` and the host about to present `inputs`. -/
def State.powerOn (p : Params) (sel : Nat) (inputs : List HostInput) : State where
  sh := Shadows.unwritten
  phase := .reset
  pin := Pins.unconfigured
  lastTx := Vector.replicate 16 none
  trace := []
  params := p
  pending := inputs
  antSel := sel
  outcomes := []
  stallAfter := none

/-- The machine right after reset: nothing presented yet (log 15), the OPEN parameters and the
host's cell at free values (log 4, 11), every service accepting (log 8). -/
def State.reset : State := State.powerOn Config.params Config.antSelAtStart []

end Sys2Proof.Machine
end

