-- ==== Sys2Proof/Machine/Flags.lean ====
section
/-! DEFINITION. RWE has no flags (R27). The one status it reports is the argument of `DONE` (R120),
and the one condition on a command is its phase (R121). -/

namespace Sys2Proof.Machine

/-- The number of a status: 1 success, 0 failure (R120). -/
def statusCode : Status → Nat
  | .failure => 0
  | .success => 1

/-- "ANT completes with `s = ok`" (R120). -/
def antStatus (ok : Bool) : Status := if ok then .success else .failure

/-- WR is admitted in `P_INIT` and `P_READY` (R84, R121). -/
def admitsWr : Phase → Bool
  | .reset => false
  | .init => true
  | .ready => true

/-- INIT is admitted in `P_RESET` (R90, R121). -/
def admitsInit : Phase → Bool
  | .reset => true
  | .init => false
  | .ready => false

/-- HOOK is admitted in `P_INIT` (R95, R121). -/
def admitsHook : Phase → Bool
  | .reset => false
  | .init => true
  | .ready => false

/-- ANT is admitted in `P_READY` (R100, R121). -/
def admitsAnt : Phase → Bool
  | .reset => false
  | .init => false
  | .ready => true

end Sys2Proof.Machine
end

