-- ==== Sys2Proof/WellFormed.lean ====
section
/-! DEFINITION. Which instructions have a packed form: the operand ranges of 30_encoding.md R64,
R65 and R73. The meanings do not ask for it: the abstract view admits every natural number. -/

namespace Sys2Proof

/-- The operands fit the packed command word: `A_BITS = 8`, `P_BITS = 32`, two bits of `sel`
(R6, R64, R65). -/
def Instr.wellFormed : Instr → Bool
  | .wr a p => decide (a < 2 ^ 8) && decide (p < 2 ^ 32)
  | .init => true
  | .hook => true
  | .ant _ sel => decide (sel < 2 ^ 2)
  | .ants _ => true
  | .wrName _ p => decide (p < 2 ^ 32)
  | .boot => true

end Sys2Proof
end

