-- ==== Sys2Proof/Decode.lean ====
section
/-! DEFINITION. The packed command word (30_encoding.md section 2): the decoder of R67, the decoder
one writes from the opcode table alone (R75), the expansion of the pseudo-instructions (R74), and
the encoder of formats W, N and A (R64). -/

namespace Sys2Proof

/-- `op = CW[47:44]` (R64). -/
def opField (cw : CommandWord) : BitVec 4 := cw.extractLsb' 44 4

/-- The reserved bits 43:40 of format W (R64). -/
def reservedW (cw : CommandWord) : BitVec 4 := cw.extractLsb' 40 4

/-- The reserved bits 43:0 of format N (R64). -/
def reservedN (cw : CommandWord) : BitVec 44 := cw.extractLsb' 0 44

/-- The reserved bits 43:3 of format A (R64). -/
def reservedA (cw : CommandWord) : BitVec 41 := cw.extractLsb' 3 41

/-- `a = CW[39:32]` and `p = CW[31:0]` (R64). -/
def readW (cw : CommandWord) : Instr :=
  .wr (cw.extractLsb' 32 8).toNat (cw.extractLsb' 0 32).toNat

/-- `ok = CW[2]` and `sel = CW[1:0]` (R64). -/
def readA (cw : CommandWord) : Instr :=
  .ant (cw.getLsbD 2) (cw.extractLsb' 0 2).toNat

/-- Decoding a command word (R67): total on the 48-bit words; the operation code is tested before
the reserved bits (R128), and the phase plays no part. -/
def decode (cw : CommandWord) : Except Reason Instr :=
  if opField cw = 0x1#4 then
    if reservedW cw ≠ 0 then .error .rsvdBits else .ok (readW cw)
  else if opField cw = 0x2#4 then
    if reservedN cw ≠ 0 then .error .rsvdBits else .ok .init
  else if opField cw = 0x3#4 then
    if reservedN cw ≠ 0 then .error .rsvdBits else .ok .hook
  else if opField cw = 0x4#4 then
    if reservedA cw ≠ 0 then .error .rsvdBits else .ok (readA cw)
  else .error .rsvdOp

/-- A row of the opcode table: `match`, `mask`, and how its operands are read (R75). -/
structure OpcodeRow where
  mnemonic : String
  pattern : CommandWord
  mask : CommandWord
  read : CommandWord → Instr

/-- The four rows of opcode_table.json that have a `match` and a `mask` (R67, R75). -/
def opcodeRows : List OpcodeRow :=
  [⟨"WR", 0x100000000000#48, 0xFF0000000000#48, readW⟩,
   ⟨"INIT", 0x200000000000#48, 0xFFFFFFFFFFFF#48, fun _ => .init⟩,
   ⟨"HOOK", 0x300000000000#48, 0xFFFFFFFFFFFF#48, fun _ => .hook⟩,
   ⟨"ANT", 0x400000000000#48, 0xFFFFFFFFFFF8#48, readA⟩]

/-- "A decoder written from the table alone, with 'anything that matches no row is refused'" (R75). -/
def decodeByTable (cw : CommandWord) : Option Instr :=
  (opcodeRows.find? fun row => decide (cw &&& row.mask = row.pattern)).map fun row => row.read cw

/-- The decoder's answer for an instruction whose bits are `w`, numbered as the opcode table numbers
them: every row of the table with an encoding is one 48-bit command word (R72). -/
def decodeTableWord (nbits w : Nat) : Option Instr :=
  if nbits ≤ 48 ∧ w < 2 ^ nbits then (decode (BitVec.ofNat 48 w)).toOption else none

/-- `ParseAnt(s)` (R105): exact, case-sensitive comparison with the three registered names. -/
def parseAnt (s : String) : Bool × Nat :=
  if s = Config.nameAuto then (true, Config.selAuto)
  else if s = Config.namePatch then (true, Config.selPatch)
  else if s = Config.nameExternal then (true, Config.selExternal)
  else (false, 0)

/-- The commands an instruction stands for: itself for a command, the expansion of R74 for a
pseudo-instruction. -/
def expand (addr : AddrMap) : Instr → List Instr
  | .wr a p => [.wr a p]
  | .init => [.init]
  | .hook => [.hook]
  | .ant ok sel => [.ant ok sel]
  | .ants s => [.ant (parseAnt s).1 (parseAnt s).2]
  | .wrName r p => [.wr (addr.get r).toNat p]
  | .boot => [.init, .hook]

/-- Format W (R64): `op = 0x1`, four zero bits, `a`, `p`. -/
def packW (a p : Nat) : CommandWord :=
  0x1#4 ++ (0#4 ++ (BitVec.ofNat 8 a ++ BitVec.ofNat 32 p))

/-- Format N (R64): the operation code and 44 zero bits. -/
def packN (op : BitVec 4) : CommandWord := op ++ 0#44

/-- Format A (R64): `op = 0x4`, 41 zero bits, `ok`, `sel`. -/
def packA (ok : Bool) (sel : Nat) : CommandWord :=
  0x4#4 ++ (0#41 ++ (BitVec.ofBool ok ++ BitVec.ofNat 2 sel))

/-- The command words of a well-formed instruction (R64, R74); an instruction whose operands do not
fit the packed form has none (R65). -/
def encode (addr : AddrMap) (i : Instr) : List CommandWord :=
  if i.wellFormed then
    match i with
    | .wr a p => [packW a p]
    | .init => [packN 0x2#4]
    | .hook => [packN 0x3#4]
    | .ant ok sel => [packA ok sel]
    | .ants s => [packA (parseAnt s).1 (parseAnt s).2]
    | .wrName r p => [packW (addr.get r).toNat p]
    | .boot => [packN 0x2#4, packN 0x3#4]
  else []

end Sys2Proof
end

