-- ==== Sys2Proof/Machine/Operands.lean ====
section
/-! DEFINITION. Operand forms and codec functions: `Encode`, `Bytes` and their lemma-only inverse
(40_codec.md), `ModePattern` and `ModeName` (42_antenna.md R102). -/

namespace Sys2Proof.Machine

/-- `Encode(a, p)` by the source's formula, on natural numbers of any size (R60, R63, R80). -/
def encodeWire (a p : Nat) : Word32 :=
  BitVec.ofNat 32 (((p <<< 4) &&& 0xFFFFFFF0) ||| (a &&& 0x0F))

/-- The address field `W[3:0]` of a wire word (R60). -/
def wireAddress (w : Word32) : Address := w.extractLsb' 0 4

/-- The payload field `W[31:4]` of a wire word (R60). -/
def wirePayload (w : Word32) : Payload := w.extractLsb' 4 28

/-- `Bytes(W)`, most significant byte first (R81). -/
def bytesOf (w : Word32) : List Byte :=
  [w.extractLsb' 24 8, w.extractLsb' 16 8, w.extractLsb' 8 8, w.extractLsb' 0 8]

/-- `Decode(W)` (R85 P4): "this is a lemma only", no command performs it. -/
def decodeWire (w : Word32) : Nat × Nat := (w.toNat &&& 0xF, w.toNat >>> 4)

/-- `ModePattern(sel)`, with its default branch (R102). -/
def modePattern (p : Params) (sel : Nat) : Word32 :=
  if sel = Config.selPatch then p.lnaIn1
  else if sel = Config.selExternal then p.lnaIn2
  else p.lnaGated

/-- `ModeName(sel)` (R102). -/
def modeName (sel : Nat) : AntMode :=
  if sel = Config.selPatch then .patch
  else if sel = Config.selExternal then .external
  else .auto

/-- The read-modify-write formula of R101: clear the mask, then OR in the pattern. -/
def replaceField (mask old pattern : Word32) : Word32 := (old &&& ~~~mask) ||| pattern

end Sys2Proof.Machine
end

