-- ==== Sys2Proof/Machine/Ops.lean ====
section
/-! DEFINITION. The shared operations: reading and writing shadows, emitting events, one bus
transaction, completing or refusing a command, power-up, and taking the host's next input. -/

namespace Sys2Proof.Machine

/-- The three ways an operation of this machine ends. -/
abbrev Result := Host.Outcome State Fault Refusal

/-- `x` and then `f` on the state it leaves; a stop ends the whole. -/
def andThen (x : Result) (f : State → Result) : Result :=
  match x with
  | .next s => f s
  | .fault r => .fault r
  | .refused r => .refused r

/-! ### Registers -/

/-- The content of shadow `r` (R20). -/
def Shadows.get (sh : Shadows) : RegName → Option Word32
  | .conf1 => sh.conf1
  | .conf2 => sh.conf2
  | .conf3 => sh.conf3
  | .pllconf => sh.pllconf
  | .div => sh.div
  | .fdiv => sh.fdiv
  | .strm => sh.strm
  | .clk => sh.clk
  | .test1 => sh.test1
  | .test2 => sh.test2

/-- The shadows with `r` holding `v`; the registers are independent (R20). -/
def Shadows.set (sh : Shadows) (r : RegName) (v : Word32) : Shadows :=
  match r with
  | .conf1 => { sh with conf1 := some v }
  | .conf2 => { sh with conf2 := some v }
  | .conf3 => { sh with conf3 := some v }
  | .pllconf => { sh with pllconf := some v }
  | .div => { sh with div := some v }
  | .fdiv => { sh with fdiv := some v }
  | .strm => { sh with strm := some v }
  | .clk => { sh with clk := some v }
  | .test1 => { sh with test1 := some v }
  | .test2 => { sh with test2 := some v }

/-- `SH[r] <- v` (R10): all 32 bits (R20). -/
def writeShadow (r : RegName) (v : Word32) (s : State) : State :=
  { s with sh := s.sh.set r v }

/-- `SH[r]` (R10), given to `k`; a shadow that holds no value cannot be read (U15, R22). -/
def readShadow (r : RegName) (s : State) (k : Word32 → Result) : Result :=
  match s.sh.get r with
  | some v => k v
  | none => .fault (.unwrittenShadow r)

/-- `PIN[line] <- level` (R24). -/
def writePin (line : Line) (level : PinLevel) (s : State) : State :=
  match line with
  | .pgm => { s with pin := { s.pin with pgm := level } }
  | .shdn => { s with pin := { s.pin with shdn := level } }
  | .idle => { s with pin := { s.pin with idle := level } }

/-- `phase <- x` (R23). -/
def setPhase (x : Phase) (s : State) : State := { s with phase := x }

/-- `LASTTX[a] <- v` (R25). -/
def LastTx.put (t : LastTx) (a : Address) (v : Payload) : LastTx :=
  t.set a.toNat (some v) a.isLt

/-- `LASTTX[a]` (R25). -/
def LastTx.at (t : LastTx) (a : Address) : Option Payload := t[a.toNat]'a.isLt

/-- `HOST.ant_sel <- sel` (R105). -/
def storeAntSel (sel : Nat) (s : State) : State := { s with antSel := sel }

/-! ### Events -/

/-- `emit E` (R10): the event is handed to its service and joins the trace; where the service never
accepts it the command has no successor (R129). -/
def emit (e : Event) (s : State) : Result :=
  match s.stallAfter with
  | none => .next { s with trace := s.trace ++ [e] }
  | some 0 => .fault (.stuck e)
  | some (n + 1) => .next { s with trace := s.trace ++ [e], stallAfter := some n }

/-- Events emitted one after the other, in program order (R50). -/
def emitAll : List Event → State → Result
  | [], s => .next s
  | e :: es, s => andThen (emit e s) (emitAll es)

/-- The six events of one transaction (R56, R83): the reply of each transfer is discarded (log 10). -/
def transaction (p : Params) (w : Word32) : List Event :=
  .sel p.devFe :: (bytesOf w).map (.xfer p.busFe) ++ [.desel]

/-- `Xmit(W)` (R83): the transaction, then the ghost `LASTTX[W[3:0]] <- W[31:4]`. -/
def xmit (w : Word32) (s : State) : Result :=
  andThen (emitAll (transaction s.params w) s) fun s =>
    .next { s with lastTx := s.lastTx.put (wireAddress w) (wirePayload w) }

/-- `MemWrite(a, 4, p) = Xmit(Encode(a, p))` (R10, R84). -/
def memWrite (a p : Nat) (s : State) : Result := xmit (encodeWire a p) s

/-! ### How a command ends -/

/-- The host's record of a command's outcome (R13; log 2). -/
def record (o : CmdOutcome) (s : State) : State := { s with outcomes := s.outcomes ++ [o] }

/-- `done(s)` (R10, R120): `DONE(s)` is the last event of a completed command. -/
def complete (st : Status) (s : State) : Result :=
  andThen (emit (.done st) s) fun s => .next (record (.completed st) s)

/-- `refuse r` (R10, R122): "no state change, no event"; the host goes on (R26, R142; log 1). -/
def refuse (r : Reason) (s : State) : Result := .next (record (.refused r) s)

/-! ### The reset input and the command port -/

/-- The reset input (R140, R141): the block's state returns to R33; nothing is emitted, and the
trace, the parameters and the host's side stay. -/
def powerUp (s : State) : State :=
  { s with
    sh := Shadows.unwritten
    phase := .reset
    pin := Pins.unconfigured
    lastTx := Vector.replicate 16 none }

/-- What an input asks for: a packed word is decoded (R67), an abstract command is itself (R64). -/
def request : HostInput → Request
  | .word cw =>
    match decode cw with
    | .ok i => .run i
    | .error r => .reject r
  | .command i => .run i
  | .reset => .powerUp

/-- The host's next input, and the state with its position advanced by one (R26). -/
def takeInput (s : State) : Option (Request × State) :=
  match s.pending with
  | [] => none
  | input :: rest => some (request input, { s with pending := rest })

end Sys2Proof.Machine
end

