-- ==== Sys2Proof/Machine/ConfigManager.lean ====
section
/-! DEFINITION. The startup commands INIT and HOOK (41_config_manager.md) and BOOT (R74 (3)). -/

namespace Sys2Proof.Machine

/-- One control line of INIT step 1 (R90, R91): configured as an output, then driven low. -/
def holdLow (line : Line) (s : State) : Result :=
  andThen (emitAll [.gpioCfg line (s.params.pull line), .gpioClr line] s) fun s =>
    .next (writePin line .low s)

/-- One control line of INIT step 1 (R90, R91): configured as an output, then driven high. -/
def holdHigh (line : Line) (s : State) : Result :=
  andThen (emitAll [.gpioCfg line (s.params.pull line), .gpioSet line] s) fun s =>
    .next (writePin line .high s)

/-- INIT step 1: program low, shutdown and idle high, in that order (R90, R91). -/
def driveControlLines (s : State) : Result :=
  andThen (holdLow .pgm s) fun s => andThen (holdHigh .shdn s) (holdHigh .idle)

/-- The registers INIT writes, in order, with their constants (R92). -/
def initTable (p : Params) : List (RegName × Word32) :=
  [(.conf1, p.initConf1), (.conf2, p.initConf2), (.conf3, p.initConf3),
   (.pllconf, p.initPllconf), (.div, p.initDiv), (.fdiv, p.initFdiv), (.clk, p.initClk)]

/-- `MemWrite(ADDR[r], 4, SH[r])`: the whole shadow is sent (R46, R90, R100). -/
def sendShadow (r : RegName) (s : State) : Result :=
  readShadow r s fun v => memWrite (s.params.addr.get r).toNat v.toNat s

/-- One of INIT's steps 2 to 8: store the shadow first, then send it (R51, R90). -/
def storeAndSend (r : RegName) (v : Word32) (s : State) : Result :=
  sendShadow r (writeShadow r v s)

/-- INIT's loop over the registers (R90). -/
def storeAndSendAll : List (RegName × Word32) → State → Result
  | [], s => .next s
  | (r, v) :: rest, s => andThen (storeAndSend r v s) (storeAndSendAll rest)

/-- `full-initialize()` behind its admission check (R90). -/
def fullInitialize (s : State) : Result :=
  if admitsInit s.phase then
    andThen (driveControlLines s) fun s =>
      andThen (storeAndSendAll (initTable s.params) s) fun s =>
        complete .success (setPhase .init s)
  else refuse .phaseInit s

/-- The registration event of R95 and R96. -/
def registration : Event :=
  .regSetting Config.settingGroup Config.settingName
    [Config.nameAuto, Config.namePatch, Config.nameExternal]

/-- `register-change-hooks()` behind its admission check (R95). -/
def registerChangeHooks (s : State) : Result :=
  if admitsHook s.phase then
    andThen (emit registration s) fun s => complete .success (setPhase .ready s)
  else refuse .phaseHook s

/-- `INIT` (R90). -/
def execInit (s : State) : Result := fullInitialize s

/-- `HOOK` (R95). -/
def execHook (s : State) : Result := registerChangeHooks s

/-- `BOOT` (R74 (3), R142): the host presents INIT, then HOOK whatever INIT's outcome was (R26);
both in one step (log 13). -/
def execBoot (s : State) : Result := andThen (fullInitialize s) registerChangeHooks

end Sys2Proof.Machine
end

