-- ==== Sys2Proof/Machine/Antenna.lean ====
section
/-! DEFINITION. The antenna-mode change: ANT and ANTS (42_antenna.md). -/

namespace Sys2Proof.Machine

/-- Step 2 (R100, R101): the LNA-mode field of the CONF1 shadow is replaced. -/
def replaceLnaMode (sel : Nat) (s : State) : Result :=
  readShadow .conf1 s fun old =>
    .next (writeShadow .conf1 (replaceField s.params.lnaMask old (modePattern s.params sel)) s)

/-- Step 4 (R100, R104): the notice, kept when `MODEL_NOTICE` is true. -/
def emitNotice (sel : Nat) (s : State) : Result :=
  if s.params.modelNotice then emit (.notice (modeName sel)) s else .next s

/-- The change handler behind its admission check (R100): the phase is tested before `ok` (R128),
and a failed parse changes nothing. -/
def changeAntennaMode (ok : Bool) (sel : Nat) (s : State) : Result :=
  if admitsAnt s.phase then
    if ok then
      andThen (replaceLnaMode sel s) fun s =>
        andThen (sendShadow .conf1 s) fun s =>
          andThen (emitNotice sel s) (complete (antStatus ok))
    else complete (antStatus ok) s
  else refuse .phaseAnt s

/-- `ANT ok, sel` (R100). -/
def execAnt (ok : Bool) (sel : Nat) (s : State) : Result := changeAntennaMode ok sel s

/-- `ANTS "<candidate>"` (R74 (1), R105, R106): the settings subsystem parses the string and on
success stores the selection (log 12); the handler is given what it then reads. -/
def execAnts (candidate : String) (s : State) : Result :=
  match parseAnt candidate with
  | (true, sel) => changeAntennaMode true (storeAntSel sel s).antSel (storeAntSel sel s)
  | (false, sel) => changeAntennaMode false sel s

end Sys2Proof.Machine
end

