-- ==== Sys2Proof/Machine/Codec.lean ====
section
/-! DEFINITION. The WR command and its named form (40_codec.md R84, 30_encoding.md R74). -/

namespace Sys2Proof.Machine

/-- `encode-and-transmit(address, payload)` behind its admission check (R84). No shadow is written. -/
def encodeAndTransmit (a p : Nat) (s : State) : Result :=
  if admitsWr s.phase then
    andThen (memWrite a p s) (complete .success)
  else refuse .phaseWr s

/-- `WR a, p` (R84). -/
def execWr (a p : Nat) (s : State) : Result := encodeAndTransmit a p s

/-- `WR <name>, p` is `WR ADDR[<name>], p` (R74 (2)). -/
def execWrName (r : RegName) (p : Nat) (s : State) : Result :=
  encodeAndTransmit (s.params.addr.get r).toNat p s

end Sys2Proof.Machine
end

