-- ==== Sys2Proof/Machine/Dispatch.lean ====
section
/-! DEFINITION. The meaning of every instruction: one arm per constructor of `Instr`. -/

namespace Sys2Proof.Machine

def exec (i : Instr) (s : State) : Host.Outcome State Fault Refusal :=
  match i with
  | .wr a p => Sys2Proof.Machine.execWr a p s
  | .init => Sys2Proof.Machine.execInit s
  | .hook => Sys2Proof.Machine.execHook s
  | .ant ok sel => Sys2Proof.Machine.execAnt ok sel s
  | .ants candidate => Sys2Proof.Machine.execAnts candidate s
  | .wrName r p => Sys2Proof.Machine.execWrName r p s
  | .boot => Sys2Proof.Machine.execBoot s

end Sys2Proof.Machine
end

