-- ==== Sys2Proof/Machine/Step.lean ====
section
/-! DEFINITION. One step: the host presents its next input and the block runs it to its outcome
(R5, R26, R152). -/

namespace Sys2Proof.Machine

/-- One step. With nothing presented the block waits (R152 "wait any time between commands"). -/
def step (s : State) : Host.Outcome State Fault Refusal :=
  match takeInput s with
  | none => .next s
  | some (.run i, s) => exec i s
  | some (.reject r, s) => refuse r s
  | some (.powerUp, s) => .next (powerUp s)

/-- `s` with the host about to present the command word whose bits are `w` (log 15); every
instruction with an encoding is one 48-bit word (R72). -/
def State.withFetchWord (s : State) (nbits w : Nat) : State :=
  { s with pending := .word (BitVec.ofNat 48 (w % 2 ^ nbits)) :: s.pending }

end Sys2Proof.Machine
end

