-- ==== Sys2Proof/Safety.lean ====
section
/-! DEFINITION. The words claims are stated in: what a transaction looks like on the trace, the
admission table of R121, the invariants of R34, and which writes keep shadow and device consistent. -/

namespace Sys2Proof.Safety

open Sys2Proof.Machine

/-- The named premise of R129: every service accepts every event. -/
abbrev ServicesAccept (s : State) : Prop := s.stallAfter = none

/-- The wire word as a number: `(p mod 2^28) * 16 + (a mod 16)` (R80). -/
def wireNumber (a p : Nat) : Nat := p % 2 ^ 28 * 16 + a % 16

/-- `TX(b0 b1 b2 b3)` of 95_test_vectors.md section 0 for the wire word of number `w` (R81, R83). -/
def tx (p : Params) (w : Nat) : List Event :=
  [.sel p.devFe, .xfer p.busFe (BitVec.ofNat 8 (w / 2 ^ 24)),
   .xfer p.busFe (BitVec.ofNat 8 (w / 2 ^ 16)), .xfer p.busFe (BitVec.ofNat 8 (w / 2 ^ 8)),
   .xfer p.busFe (BitVec.ofNat 8 w), .desel]

/-- `GPIO6` of 95_test_vectors.md section 0 (R90, R91). -/
def gpio6 (p : Params) : List Event :=
  [.gpioCfg .pgm p.pullPgm, .gpioClr .pgm, .gpioCfg .shdn p.pullShdn, .gpioSet .shdn,
   .gpioCfg .idle p.pullIdle, .gpioSet .idle]

/-- `REG` of 95_test_vectors.md section 0 (R95). -/
def reg : Event := .regSetting "frontend" "antenna_selection" ["Auto", "Patch", "External"]

/-- The seven registers INIT writes, in order (R92). -/
def initOrder : List RegName := [.conf1, .conf2, .conf3, .pllconf, .div, .fdiv, .clk]

/-- `INIT_r` (R6); `none` for the three registers no step names (R92). -/
def initConst (p : Params) : RegName → Option Word32
  | .conf1 => some p.initConf1
  | .conf2 => some p.initConf2
  | .conf3 => some p.initConf3
  | .pllconf => some p.initPllconf
  | .div => some p.initDiv
  | .fdiv => some p.initFdiv
  | .clk => some p.initClk
  | .strm => none
  | .test1 => none
  | .test2 => none

/-- The 42 bus events of INIT (R97). -/
def initTransactions (p : Params) : List Event :=
  tx p (wireNumber p.addr.conf1.toNat p.initConf1.toNat) ++
  tx p (wireNumber p.addr.conf2.toNat p.initConf2.toNat) ++
  tx p (wireNumber p.addr.conf3.toNat p.initConf3.toNat) ++
  tx p (wireNumber p.addr.pllconf.toNat p.initPllconf.toNat) ++
  tx p (wireNumber p.addr.div.toNat p.initDiv.toNat) ++
  tx p (wireNumber p.addr.fdiv.toNat p.initFdiv.toNat) ++
  tx p (wireNumber p.addr.clk.toNat p.initClk.toNat)

/-- The 49 events of a completed INIT (R97). -/
def initTrace (p : Params) : List Event := gpio6 p ++ initTransactions p ++ [.done .success]

/-- The LNA-mode pattern of a selection, with the numbers of R102 written out. -/
def patternOf (p : Params) (sel : Nat) : Word32 :=
  if sel = 1 then p.lnaIn1 else if sel = 2 then p.lnaIn2 else p.lnaGated

/-- The mode a notice names, with the numbers of R102 written out. -/
def nameOf (sel : Nat) : AntMode := if sel = 1 then .patch else if sel = 2 then .external else .auto

/-- The CONF1 shadow after a successful ANT (R101). -/
def newConf1 (p : Params) (old : Word32) (sel : Nat) : Word32 :=
  (old &&& ~~~p.lnaMask) ||| patternOf p sel

/-- The notice of a successful ANT, kept when `MODEL_NOTICE` is true (R104). -/
def noticeOf (p : Params) (sel : Nat) : List Event :=
  if p.modelNotice = true then [.notice (nameOf sel)] else []

/-- The table of R121: why a command is refused in a phase, `none` where it is admitted.
A pseudo-instruction is none of the table's rows. -/
def refusedAs : Instr → Phase → Option Reason
  | .wr _ _, .reset => some .phaseWr
  | .init, .init => some .phaseInit
  | .init, .ready => some .phaseInit
  | .hook, .reset => some .phaseHook
  | .hook, .ready => some .phaseHook
  | .ant _ _, .reset => some .phaseAnt
  | .ant _ _, .init => some .phaseAnt
  | _, _ => none

/-- The phase an admitted command leaves (R121). -/
def phaseAfter : Instr → Phase → Phase
  | .init, _ => .init
  | .hook, _ => .ready
  | _, ph => ph

/-- The status an admitted command completes with (R120). -/
def statusOf : Instr → Status
  | .ant false _ => .failure
  | _ => .success

/-- Instructions presented one after the other (R26); a stuck one ends the run. -/
def presentAll : List Instr → State → Result
  | [], s => .next s
  | i :: is, s => andThen (exec i s) (presentAll is)

/-- The number of bus transactions in a trace: one `SEL` each (R56). -/
def transactions (es : List Event) : Nat :=
  (es.filter fun e => match e with | .sel _ => true | _ => false).length

/-- Bus events stand in whole transactions only: SEL, four XFER, DESEL, nothing in between and
nothing left open (R50 (a), R56, R86). -/
def framed : List Event → Bool
  | [] => true
  | .sel _ :: .xfer _ _ :: .xfer _ _ :: .xfer _ _ :: .xfer _ _ :: .desel :: rest => framed rest
  | .sel _ :: _ => false
  | .xfer _ _ :: _ => false
  | .desel :: _ => false
  | .gpioCfg _ _ :: rest => framed rest
  | .gpioSet _ :: rest => framed rest
  | .gpioClr _ :: rest => framed rest
  | .regSetting _ _ _ :: rest => framed rest
  | .notice _ :: rest => framed rest
  | .done _ :: rest => framed rest

/-- The statuses of a trace's `DONE` events, in order (R120). -/
def doneStatuses (es : List Event) : List Status :=
  es.filterMap fun e => match e with | .done s => some s | _ => none

/-- The statuses of the completed commands, in order (R13). -/
def completedStatuses (os : List CmdOutcome) : List Status :=
  os.filterMap fun o => match o with | .completed s => some s | .refused _ => none

/-! ### The states the rules give -/

/-- `s` after a command refused for `r`: only the host's record grows (R122). -/
def refusedWith (r : Reason) (s : State) : State := { s with outcomes := s.outcomes ++ [.refused r] }

/-- `s` after a completed `WR a, p` (R84). -/
def afterWr (a p : Nat) (s : State) : State :=
  { s with
    lastTx := s.lastTx.put (BitVec.ofNat 4 a) (BitVec.ofNat 28 p)
    trace := s.trace ++ tx s.params (wireNumber a p) ++ [.done .success]
    outcomes := s.outcomes ++ [.completed .success] }

/-- `LASTTX` after INIT's seven transactions (R90, R93 (b)). -/
def lastTxAfterInit (p : Params) (t : LastTx) : LastTx :=
  let t := t.put p.addr.conf1 (p.initConf1.setWidth 28)
  let t := t.put p.addr.conf2 (p.initConf2.setWidth 28)
  let t := t.put p.addr.conf3 (p.initConf3.setWidth 28)
  let t := t.put p.addr.pllconf (p.initPllconf.setWidth 28)
  let t := t.put p.addr.div (p.initDiv.setWidth 28)
  let t := t.put p.addr.fdiv (p.initFdiv.setWidth 28)
  t.put p.addr.clk (p.initClk.setWidth 28)

/-- `s` after a completed `INIT` (R90, R97). -/
def afterInit (s : State) : State :=
  { s with
    sh := { s.sh with
      conf1 := some s.params.initConf1
      conf2 := some s.params.initConf2
      conf3 := some s.params.initConf3
      pllconf := some s.params.initPllconf
      div := some s.params.initDiv
      fdiv := some s.params.initFdiv
      clk := some s.params.initClk }
    phase := .init
    pin := ⟨.low, .high, .high⟩
    lastTx := lastTxAfterInit s.params s.lastTx
    trace := s.trace ++ initTrace s.params
    outcomes := s.outcomes ++ [.completed .success] }

/-- `s` after a completed `HOOK` (R95). -/
def afterHook (s : State) : State :=
  { s with
    phase := .ready
    trace := s.trace ++ [reg, .done .success]
    outcomes := s.outcomes ++ [.completed .success] }

/-- `s` after `ANT 0, x` in `P_READY` (R100). -/
def afterFailedAnt (s : State) : State :=
  { s with
    trace := s.trace ++ [.done .failure]
    outcomes := s.outcomes ++ [.completed .failure] }

/-- `s` after `ANT 1, sel` in `P_READY` with `old` in the CONF1 shadow (R100, R101, R104). -/
def afterAnt (sel : Nat) (old : Word32) (s : State) : State :=
  { s with
    sh := { s.sh with conf1 := some (newConf1 s.params old sel) }
    lastTx := s.lastTx.put s.params.addr.conf1 ((newConf1 s.params old sel).setWidth 28)
    trace := s.trace ++
      tx s.params (wireNumber s.params.addr.conf1.toNat (newConf1 s.params old sel).toNat) ++
      noticeOf s.params sel ++ [.done .success]
    outcomes := s.outcomes ++ [.completed .success] }

/-! ### The invariants of R34 -/

/-- R34 (I1): `phase = P_RESET` if and only if all ten shadows are unwritten. -/
abbrev ResetIffUnwritten (s : State) : Prop := s.phase = .reset ↔ ∀ r, s.sh.get r = none

/-- R34 (I2): after INIT its seven shadows hold values and the other three are unwritten. -/
abbrev SevenWritten (s : State) : Prop :=
  s.phase ≠ .reset → ∀ r, (s.sh.get r = none ↔ initConst s.params r = none)

/-- R34 (I3): the six shadows ANT leaves alone hold their constants; CONF1 holds its constant
outside the mask and one of the three patterns inside it. -/
abbrev ShadowsHoldConstants (s : State) : Prop :=
  s.phase ≠ .reset →
    (∀ r, r ≠ .conf1 → s.sh.get r = initConst s.params r) ∧
    ∃ v, s.sh.conf1 = some v ∧
      v &&& ~~~s.params.lnaMask = s.params.initConf1 &&& ~~~s.params.lnaMask ∧
      (v &&& s.params.lnaMask = s.params.lnaGated ∨ v &&& s.params.lnaMask = s.params.lnaIn1 ∨
        v &&& s.params.lnaMask = s.params.lnaIn2)

/-- R103: between INIT and HOOK the CONF1 shadow is what INIT wrote. -/
abbrev Conf1FreshInInit (s : State) : Prop :=
  s.phase = .init → s.sh.conf1 = some s.params.initConf1

/-- R34 (I5): the lines are unconfigured in `P_RESET` and at (0, 1, 1) otherwise. -/
abbrev PinsFollowPhase (s : State) : Prop :=
  s.pin = if s.phase = .reset then ⟨.unconfigured, .unconfigured, .unconfigured⟩
    else ⟨.low, .high, .high⟩

/-- R33 and R84: nothing has been sent in `P_RESET`. -/
abbrev NothingSentInReset (s : State) : Prop := s.phase = .reset → ∀ a, s.lastTx.at a = none

/-- R34, with the two facts beside it; the clauses about mode patterns are asked for a well-formed
assignment only (R7). -/
structure Inv (s : State) : Prop where
  resetIffUnwritten : ResetIffUnwritten s
  sevenWritten : SevenWritten s
  shadowsHoldConstants : s.params.WellFormed → ShadowsHoldConstants s
  conf1FreshInInit : Conf1FreshInInit s
  pinsFollowPhase : PinsFollowPhase s
  nothingSentInReset : NothingSentInReset s

/-! ### Shadow consistency (R34 I4) -/

/-- What was last sent to `ADDR[r]` is the low 28 bits of `SH[r]` (R34 I4). -/
abbrev Consistent (r : RegName) (s : State) : Prop :=
  ∀ v, s.sh.get r = some v → s.lastTx.at (s.params.addr.get r) = some (v.setWidth 28)

/-- The instruction is a raw write to the device address of `r` (R34 I4, R147). -/
def writesRaw (addr : AddrMap) (r : RegName) : Instr → Prop
  | .wr a _ => BitVec.ofNat 4 a = addr.get r
  | .wrName r' _ => addr.get r' = addr.get r
  | _ => False

end Sys2Proof.Safety
end

