-- ==== Sys2Proof/Certificates/Slice0/Obligations.lean ====
section
/-! DEFINITION. The statements about the register word encoder: one `def Obligations.<Name> : Prop`
each, listed in OBLIGATIONS.json. Where a statement gives a whole next state, the outcome the spec gives
the command (R13) stands at the end of `outcomes`: that form of it is the model's (log 1, log 2). -/

open Sys2Proof Sys2Proof.Machine Sys2Proof.Safety

/-! ### The codec (40_codec.md) -/

/-- R80, R60: `Encode` by its formula, field by field, in arithmetic, and on the corner cases. -/
def Obligations.EncodeByFormulaFieldsAndArithmetic : Prop :=
  (∀ a p : Nat,
    (encodeWire a p).toNat = ((p <<< 4) &&& 0xFFFFFFF0) ||| (a &&& 0x0F) ∧
    (encodeWire a p).toNat = p % 2 ^ 28 * 16 + a % 16 ∧
    wirePayload (encodeWire a p) = BitVec.ofNat 28 p ∧
    wireAddress (encodeWire a p) = BitVec.ofNat 4 a ∧
    encodeWire a (p + 2 ^ 28) = encodeWire a p) ∧
  encodeWire 0 0 = 0x00000000#32 ∧ encodeWire 0x1F 0 = 0x0000000F#32 ∧
  encodeWire 0xF 0 = 0x0000000F#32 ∧ encodeWire 15 (2 ^ 28 - 1) = 0xFFFFFFFF#32 ∧
  encodeWire 0x9 0x12345678 = 0x23456789#32

/-- R81, R61: `Bytes` most significant first, a bijection between words and lists of four bytes, and
the byte layout of the wire word. -/
def Obligations.BytesSplitsMostSignificantFirst : Prop :=
  (∀ w : Word32, (bytesOf w).map BitVec.toNat =
    [(w.toNat >>> 24) &&& 0xFF, (w.toNat >>> 16) &&& 0xFF, (w.toNat >>> 8) &&& 0xFF,
      w.toNat &&& 0xFF]) ∧
  (∀ (w : Word32) (b0 b1 b2 b3 : Byte), bytesOf w = [b0, b1, b2, b3] ↔
    w.toNat = b0.toNat * 2 ^ 24 + b1.toNat * 2 ^ 16 + b2.toNat * 2 ^ 8 + b3.toNat) ∧
  (∀ b0 b1 b2 b3 : Byte, ∃ w, bytesOf w = [b0, b1, b2, b3]) ∧
  (∀ w : Word32, bytesOf w =
    [(wirePayload w).extractLsb' 20 8, (wirePayload w).extractLsb' 12 8,
      (wirePayload w).extractLsb' 4 8, (wirePayload w).extractLsb' 0 4 ++ wireAddress w]) ∧
  bytesOf 0x23456789#32 = [0x23#8, 0x45#8, 0x67#8, 0x89#8] ∧
  bytesOf 0x0000000F#32 = [0x00#8, 0x00#8, 0x00#8, 0x0F#8]

/-- 30_encoding.md section 1: two operand pairs give the same wire word exactly when their addresses
agree mod 16 and their payloads agree mod 2^28. -/
def Obligations.WireWordsEqualExactlyOnReducedOperands : Prop :=
  ∀ a p a' p' : Nat,
    encodeWire a p = encodeWire a' p' ↔ a % 16 = a' % 16 ∧ p % 2 ^ 28 = p' % 2 ^ 28

/-- 40_codec.md section 3, the spec's own inference: the lemma-only inverse, so that every 32-bit
word is the wire word of some operands; first and last byte. -/
def Obligations.WireDecodeInvertsEncode : Prop :=
  (∀ a p : Nat, decodeWire (encodeWire a p) = (a % 16, p % 2 ^ 28)) ∧
  (∀ w : Word32, encodeWire (decodeWire w).1 (decodeWire w).2 = w) ∧
  (∀ a p : Nat, ((bytesOf (encodeWire a p))[3]?.map BitVec.toNat) =
    some (((p % 16) <<< 4) ||| (a % 16))) ∧
  (∀ a p : Nat, ((bytesOf (encodeWire a p))[0]?.map BitVec.toNat) = some ((p >>> 20) % 256))

/-! ### The command word (30_encoding.md section 2) -/

/-- Decode and encode agree: the words of a well-formed instruction decode, in order, to the
commands it stands for; a command has one word, which decodes to it. -/
def Obligations.DecodeOfEncodeIsTheInstruction : Prop :=
  ∀ (addr : AddrMap) (i : Instr), i.wellFormed = true →
    (encode addr i).map decode = (expand addr i).map Except.ok ∧
    (i.isCommand = true → ∃ cw, encode addr i = [cw] ∧ decode cw = .ok i)

/-- The other direction: what a word decodes to is a well-formed command whose one word it is. -/
def Obligations.EncodeOfDecodeIsTheWord : Prop :=
  ∀ (addr : AddrMap) (cw : CommandWord) (i : Instr), decode cw = .ok i →
    i.wellFormed = true ∧ i.isCommand = true ∧ encode addr i = [cw]

/-- R67: the decoder by the fields of the word as a number, on all 48-bit words, and the match and
mask values of its four rows. -/
def Obligations.DecodeByFields : Prop :=
  (∀ cw : CommandWord, decode cw =
    (if cw.toNat / 2 ^ 44 = 1 then
      if cw.toNat / 2 ^ 40 % 16 ≠ 0 then .error .rsvdBits
      else .ok (.wr (cw.toNat / 2 ^ 32 % 256) (cw.toNat % 2 ^ 32))
    else if cw.toNat / 2 ^ 44 = 2 then
      if cw.toNat % 2 ^ 44 ≠ 0 then .error .rsvdBits else .ok .init
    else if cw.toNat / 2 ^ 44 = 3 then
      if cw.toNat % 2 ^ 44 ≠ 0 then .error .rsvdBits else .ok .hook
    else if cw.toNat / 2 ^ 44 = 4 then
      if cw.toNat % 2 ^ 44 / 2 ^ 3 ≠ 0 then .error .rsvdBits
      else .ok (.ant (decide (cw.toNat / 2 ^ 2 % 2 = 1)) (cw.toNat % 2 ^ 2))
    else .error .rsvdOp)) ∧
  opcodeRows.map (fun row => (row.mnemonic, row.pattern, row.mask)) =
    [("WR", 0x100000000000#48, 0xFF0000000000#48), ("INIT", 0x200000000000#48, 0xFFFFFFFFFFFF#48),
     ("HOOK", 0x300000000000#48, 0xFFFFFFFFFFFF#48), ("ANT", 0x400000000000#48, 0xFFFFFFFFFFF8#48)]

/-- 30_encoding.md section 4: the decoder written from the table alone is the decoder of the tests
in order, and at most one row matches a word. -/
def Obligations.TableDecoderIsTheDecoder : Prop :=
  (∀ cw : CommandWord, decodeByTable cw = (decode cw).toOption) ∧
  ∀ (cw : CommandWord),
    (opcodeRows.filter fun row => decide (cw &&& row.mask = row.pattern)).length ≤ 1

/-- Words written out in 95_test_vectors.md section 2.6 decode to what that section says. -/
def Obligations.WrittenOutWordsDecode : Prop :=
  decode 0x100912345678#48 = .ok (.wr 0x09 0x12345678) ∧
  decode 0x110912345678#48 = .error .rsvdBits ∧
  decode 0x200000000000#48 = .ok .init ∧
  decode 0x200000000001#48 = .error .rsvdBits ∧
  decode 0x300000000000#48 = .ok .hook ∧
  decode 0x300000010000#48 = .error .rsvdBits ∧
  decode 0x400000000005#48 = .ok (.ant true 1) ∧
  decode 0x400000000003#48 = .ok (.ant false 3) ∧
  decode 0x400000000008#48 = .error .rsvdBits ∧
  decode 0x000000000000#48 = .error .rsvdOp ∧
  decode 0x500000000000#48 = .error .rsvdOp

/-- 30_encoding.md section 4: every instruction means the commands it expands to, presented one
after the other; ANTS also stores the parsed selection in the host's cell first (42_antenna.md
section 2). That BOOT takes one step is the model's choice (log 13). -/
def Obligations.InstructionMeansItsExpansion : Prop :=
  ∀ (i : Instr) (s : State),
    exec i s = presentAll (expand s.params.addr i)
      (match i with
        | .ants c => if (parseAnt c).1 = true then { s with antSel := (parseAnt c).2 } else s
        | _ => s)

/-! ### One step -/

/-- A step runs the decoded command on the state with the host's position advanced; an abstract
command is run as it is; with nothing presented the block waits; and the host's placing of a word
runs exactly that word's instruction. How inputs are held is the model's choice (log 14, log 15). -/
def Obligations.StepRunsTheDecodedCommand : Prop :=
  (∀ (s : State) (cw : CommandWord) (rest : List HostInput) (i : Instr),
    s.pending = .word cw :: rest → decode cw = .ok i →
      step s = exec i { s with pending := rest }) ∧
  (∀ (s : State) (rest : List HostInput) (i : Instr),
    s.pending = .command i :: rest → step s = exec i { s with pending := rest }) ∧
  (∀ s : State, s.pending = [] → step s = .next s) ∧
  (∀ (s : State) (nbits w : Nat) (i : Instr),
    decodeTableWord nbits w = some i → step (s.withFetchWord nbits w) = exec i s)

/-- R128, R68, R69: the first check that fires decides; a refused word changes nothing but the
host's record, and an ANT with ok = 0 reaches its failure only in `P_READY`. -/
def Obligations.ChecksComeInOrder : Prop :=
  ∀ (s : State) (cw : CommandWord) (rest : List HostInput), s.pending = .word cw :: rest →
    (cw.toNat / 2 ^ 44 = 0 ∨ 4 < cw.toNat / 2 ^ 44 →
      step s = .next (refusedWith .rsvdOp { s with pending := rest })) ∧
    ((cw.toNat / 2 ^ 44 = 1 ∧ cw.toNat / 2 ^ 40 % 16 ≠ 0) ∨
      (cw.toNat / 2 ^ 44 = 2 ∧ cw.toNat % 2 ^ 44 ≠ 0) ∨
      (cw.toNat / 2 ^ 44 = 3 ∧ cw.toNat % 2 ^ 44 ≠ 0) ∨
      (cw.toNat / 2 ^ 44 = 4 ∧ cw.toNat % 2 ^ 44 / 2 ^ 3 ≠ 0) →
      step s = .next (refusedWith .rsvdBits { s with pending := rest })) ∧
    (∀ (i : Instr) (r : Reason), decode cw = .ok i → refusedAs i s.phase = some r →
      step s = .next (refusedWith r { s with pending := rest })) ∧
    (∀ sel : Nat, decode cw = .ok (.ant false sel) → s.phase = .ready → ServicesAccept s →
      step s = .next (afterFailedAnt { s with pending := rest }))

/-- R140: the reset input puts every piece of the block's state at the values of R33, emits nothing,
and is the only way back to `P_RESET`. -/
def Obligations.ResetInputIsPowerUp : Prop :=
  (∀ (s : State) (rest : List HostInput), s.pending = .reset :: rest →
    ∃ t, step s = .next t ∧ (∀ r, t.sh.get r = none) ∧ t.phase = .reset ∧
      t.pin = ⟨.unconfigured, .unconfigured, .unconfigured⟩ ∧ (∀ a, t.lastTx.at a = none) ∧
      t.trace = s.trace) ∧
  (∀ s t : State, step s = .next t → t.phase = .reset →
    s.phase = .reset ∨ s.pending.head? = some .reset)

/-- 70_reset_and_hazards.md section 1: what the reset input leaves alone. That the host's cell, the
record and the services' budget stay as they are is the model's choice (log 2, log 8, log 11). -/
def Obligations.ResetFrame : Prop :=
  ∀ (s t : State) (rest : List HostInput), s.pending = .reset :: rest → step s = .next t →
    t.trace = s.trace ∧ t.params = s.params ∧ t.antSel = s.antSel ∧ t.outcomes = s.outcomes ∧
      t.stallAfter = s.stallAfter ∧ t.pending = rest

/-- 10_state.md section 5: the state after power-up. That no input is pending, no outcome recorded and
every service accepting are the model's choices (log 2, log 8, log 15). -/
def Obligations.PowerUpState : Prop :=
  (∀ (p : Params) (sel : Nat) (inputs : List HostInput),
    (∀ r, (State.powerOn p sel inputs).sh.get r = none) ∧
    (State.powerOn p sel inputs).phase = .reset ∧
    (State.powerOn p sel inputs).pin = ⟨.unconfigured, .unconfigured, .unconfigured⟩ ∧
    (∀ a, (State.powerOn p sel inputs).lastTx.at a = none) ∧
    (State.powerOn p sel inputs).trace = [] ∧
    (State.powerOn p sel inputs).params = p ∧
    (State.powerOn p sel inputs).outcomes = [] ∧
    (State.powerOn p sel inputs).stallAfter = none) ∧
  State.reset = State.powerOn Config.params Config.antSelAtStart [] ∧
  ∀ r : RegName, (Config.params.addr.get r).toNat = RegName.all.idxOf r

/-! ### What each command does -/

/-- R84: WR in every phase, with its example. -/
def Obligations.WrSendsOneWord : Prop :=
  (∀ (a p : Nat) (s : State), s.phase ≠ .reset → ServicesAccept s →
    exec (.wr a p) s = .next (afterWr a p s)) ∧
  (∀ (a p : Nat) (s : State), s.phase = .reset →
    exec (.wr a p) s = .next (refusedWith .phaseWr s)) ∧
  decode 0x100912345678#48 = .ok (.wr 0x09 0x12345678) ∧
  (∀ p : Params, tx p (wireNumber 0x09 0x12345678) =
    [.sel p.devFe, .xfer p.busFe 0x23, .xfer p.busFe 0x45, .xfer p.busFe 0x67,
     .xfer p.busFe 0x89, .desel])

/-- 30_encoding.md section 4 (2): `WR <name>, p` completes as the write to `ADDR[<name>]`. -/
def Obligations.WrNameSendsOneWord : Prop :=
  (∀ (r : RegName) (p : Nat) (s : State), s.phase ≠ .reset → ServicesAccept s →
    exec (.wrName r p) s = .next (afterWr (s.params.addr.get r).toNat p s)) ∧
  (∀ (r : RegName) (p : Nat) (s : State), s.phase = .reset →
    exec (.wrName r p) s = .next (refusedWith .phaseWr s))

/-- R90: INIT in every phase, with the first transaction of its example. -/
def Obligations.InitSetsUpTheDevice : Prop :=
  (∀ s : State, s.phase = .reset → ServicesAccept s → exec .init s = .next (afterInit s)) ∧
  (∀ s : State, s.phase ≠ .reset → exec .init s = .next (refusedWith .phaseInit s)) ∧
  (∀ p : Params, (initTrace p).length = 49) ∧
  decode 0x200000000000#48 = .ok .init ∧
  (∀ p : Params, tx p (wireNumber 0x0 0x0A2919A3) =
    [.sel p.devFe, .xfer p.busFe 0xA2, .xfer p.busFe 0x91, .xfer p.busFe 0x9A,
     .xfer p.busFe 0x30, .desel])

/-- R93: the postconditions of a completed INIT, from a state the invariant allows and under a
well-formed assignment. -/
def Obligations.InitPostconditions : Prop :=
  ∀ s : State, Inv s → s.params.WellFormed → s.phase = .reset → ServicesAccept s →
    ∃ t, exec .init s = .next t ∧ t.params = s.params ∧
      (∀ r v, initConst s.params r = some v → t.sh.get r = some v) ∧
      (∀ r v, initConst s.params r = some v →
        t.lastTx.at (s.params.addr.get r) = some (BitVec.ofNat 28 v.toNat)) ∧
      (∀ r, initConst s.params r = none → t.sh.get r = none) ∧
      (∀ a, (∀ r ∈ initOrder, s.params.addr.get r ≠ a) → t.lastTx.at a = none) ∧
      t.pin = ⟨.low, .high, .high⟩ ∧ t.phase = .init ∧
      (t.sh.conf1.map fun v => v &&& s.params.lnaMask) = some (s.params.initConf1 &&& s.params.lnaMask) ∧
      s.params.initConf1 &&& s.params.lnaMask = s.params.lnaGated

/-- R95: HOOK in every phase, with its command word. -/
def Obligations.HookRegistersTheSetting : Prop :=
  (∀ s : State, s.phase = .init → ServicesAccept s → exec .hook s = .next (afterHook s)) ∧
  (∀ s : State, s.phase ≠ .init → exec .hook s = .next (refusedWith .phaseHook s)) ∧
  decode 0x300000000000#48 = .ok .hook

/-- R100, R76, R102: ANT in every phase, with either value of ok, and its example; with ok = 0 the field
`sel` makes no difference in any state. -/
def Obligations.AntChangesTheMode : Prop :=
  (∀ (ok : Bool) (sel : Nat) (s : State), s.phase ≠ .ready →
    exec (.ant ok sel) s = .next (refusedWith .phaseAnt s)) ∧
  (∀ (sel : Nat) (s : State), s.phase = .ready → ServicesAccept s →
    exec (.ant false sel) s = .next (afterFailedAnt s)) ∧
  (∀ (sel : Nat) (old : Word32) (s : State), s.phase = .ready → ServicesAccept s →
    s.sh.conf1 = some old → exec (.ant true sel) s = .next (afterAnt sel old s)) ∧
  (∀ (sel sel' : Nat) (s : State), exec (.ant false sel) s = exec (.ant false sel') s) ∧
  decode 0x400000000005#48 = .ok (.ant true 1) ∧
  (∀ p : Params, p.lnaMask = 0x00006000#32 → p.lnaIn1 = 0x00004000#32 →
    newConf1 p 0x0A2919A3#32 1 = 0x0A2959A3#32 ∧
    tx p (wireNumber 0 0x0A2959A3) =
      [.sel p.devFe, .xfer p.busFe 0xA2, .xfer p.busFe 0x95, .xfer p.busFe 0x9A,
       .xfer p.busFe 0x30, .desel])

/-- 42_antenna.md section 2: the host's parse, what it stores, and the handler's call with its result. That the host
stores the selection whatever the phase is the model's reading (log 12). -/
def Obligations.AntsParsesAndCallsTheHandler : Prop :=
  (∀ (c : String) (sel : Nat),
    (c, sel) ∈ [("Auto", 0), ("Patch", 1), ("External", 2)] →
      parseAnt c = (true, sel) ∧
      (∀ s : State, s.phase ≠ .ready →
        exec (.ants c) s = .next (refusedWith .phaseAnt { s with antSel := sel })) ∧
      (∀ (old : Word32) (s : State), s.phase = .ready → ServicesAccept s →
        s.sh.conf1 = some old →
        exec (.ants c) s = .next (afterAnt sel old { s with antSel := sel }))) ∧
  (∀ c : String, c ≠ "Auto" → c ≠ "Patch" → c ≠ "External" →
    parseAnt c = (false, 0) ∧
    (∀ s : State, s.phase ≠ .ready → exec (.ants c) s = .next (refusedWith .phaseAnt s)) ∧
    (∀ s : State, s.phase = .ready → ServicesAccept s →
      exec (.ants c) s = .next (afterFailedAnt s)))

/-- 70_reset_and_hazards.md section 2: BOOT runs INIT and then HOOK, each admitted or refused by its
own phase. That the two are one step is the model's choice (log 13). -/
def Obligations.BootRunsInitThenHook : Prop :=
  (∀ s : State, s.phase = .reset → ServicesAccept s →
    exec .boot s = .next (afterHook (afterInit s))) ∧
  (∀ s : State, s.phase = .init → ServicesAccept s →
    exec .boot s = .next (afterHook (refusedWith .phaseInit s))) ∧
  (∀ s : State, s.phase = .ready →
    exec .boot s = .next (refusedWith .phaseHook (refusedWith .phaseInit s)))

/-- 70_reset_and_hazards.md section 2: the state after boot from power-up, under a well-formed
assignment. That INIT and HOOK run to their end from there rests on every service accepting right after
power-up, which is the model's choice (log 8). -/
def Obligations.StateAfterBoot : Prop :=
  ∀ (p : Params) (sel : Nat) (inputs : List HostInput), p.WellFormed →
    ∃ t, presentAll [.init, .hook] (State.powerOn p sel inputs) = .next t ∧
      t.phase = .ready ∧ (∀ r, t.sh.get r = initConst p r) ∧
      (t.sh.conf1.map fun v => v &&& p.lnaMask) = some p.lnaGated ∧
      t.pin = ⟨.low, .high, .high⟩ ∧
      t.trace = initTrace p ++ [reg, .done .success] ∧ t.trace.length = 49 + 2 ∧
      transactions t.trace = 7 ∧
      ∀ r v, t.sh.get r = some v → t.lastTx.at (p.addr.get r) = some (v.setWidth 28)

/-! ### Admission and refusal (60_exceptions.md) -/

/-- R121: each command in each phase is refused for the table's reason, or admitted, and then it
completes with the phase the table gives. ANT with ok = 1 reads the CONF1 shadow, which holds a value
in every state the invariant allows. -/
def Obligations.AdmissionByPhase : Prop :=
  ∀ (i : Instr) (s : State), i.isCommand = true → Inv s → ServicesAccept s →
    (∀ r, refusedAs i s.phase = some r → exec i s = .next (refusedWith r s)) ∧
    (refusedAs i s.phase = none → ∃ t, exec i s = .next t ∧
      t.outcomes = s.outcomes ++ [.completed (statusOf i)] ∧ t.phase = phaseAfter i s.phase)

/-- 60_exceptions.md section 1: a refused command changes nothing and emits nothing but the host's
record of the outcome (log 1, log 2). A command refused for a reason has that reason in the phase table;
a word that does not decode is refused for its operation code, or for reserved bits where its operation
code is known. When each reason is raised is said by `ChecksComeInOrder` and `AdmissionByPhase`. -/
def Obligations.RefusedCommandChangesNothing : Prop :=
  (∀ (i : Instr) (s t : State) (r : Reason), i.isCommand = true → exec i s = .next t →
    t.outcomes = s.outcomes ++ [.refused r] →
      t = refusedWith r s ∧ refusedAs i s.phase = some r) ∧
  ∀ (s : State) (cw : CommandWord) (rest : List HostInput) (r : Reason),
    s.pending = .word cw :: rest → decode cw = .error r →
      step s = .next (refusedWith r { s with pending := rest }) ∧
      ((r = .rsvdOp ∧ (cw.toNat / 2 ^ 44 = 0 ∨ 4 < cw.toNat / 2 ^ 44)) ∨
        (r = .rsvdBits ∧ 1 ≤ cw.toNat / 2 ^ 44 ∧ cw.toNat / 2 ^ 44 ≤ 4))

/-- 00_scope.md section 4 (outcomes): a presented command that is not stuck has exactly one outcome; a
completed one ends with its one DONE event and a refused one emits nothing. -/
def Obligations.EveryCommandHasOneOutcome : Prop :=
  ∀ (i : Instr) (s t : State), i ≠ .boot → exec i s = .next t →
    ∃ es o, t.trace = s.trace ++ es ∧ t.outcomes = s.outcomes ++ [o] ∧
      ((∃ r, o = .refused r ∧ es = []) ∨
        ∃ st es', o = .completed st ∧ es = es' ++ [.done st] ∧ doneStatuses es' = [])

/-- The host's record and the trace tell the same statuses, kept by every step. The record is the
model's own field (log 2). -/
def Obligations.StepKeepsRecordInStepWithTrace : Prop :=
  ∀ s t : State, doneStatuses s.trace = completedStatuses s.outcomes → step s = .next t →
    doneStatuses t.trace = completedStatuses t.outcomes

/-- 60_exceptions.md section 1, "gives the emitting step no successor": with k events still to be accepted, an
instruction that would emit more than k is stuck at the first one not accepted, and one that emits
at most k runs as it would. The budget is the model's own field (log 8, log 9). -/
def Obligations.StuckAtFirstEventNotAccepted : Prop :=
  ∀ (i : Instr) (s t : State) (es : List Event) (k : Nat),
    exec i { s with stallAfter := none } = .next t → t.trace = s.trace ++ es →
      (∀ h : k < es.length, exec i { s with stallAfter := some k } = .fault (.stuck es[k])) ∧
      (es.length ≤ k →
        exec i { s with stallAfter := some k } = .next { t with stallAfter := some (k - es.length) })

/-- No step refuses to give a meaning, and from a state the invariant allows, with every service
accepting, every step has a next state. -/
def Obligations.EveryStepGoesOn : Prop :=
  (∀ (s : State) (r : Refusal), step s ≠ .refused r) ∧
  ∀ s : State, Inv s → ServicesAccept s → ∃ t, step s = .next t

/-! ### Frames -/

/-- A write leaves everything but LASTTX at its address, the trace, the record and the services'
budget unchanged: no shadow is touched. -/
def Obligations.WriteFrame : Prop :=
  ∀ (i : Instr) (s t : State) (target : Address), exec i s = .next t →
    (match i with
      | .wr a _ => target = BitVec.ofNat 4 a
      | .wrName r _ => target = s.params.addr.get r
      | _ => False) →
    t.sh = s.sh ∧ t.phase = s.phase ∧ t.pin = s.pin ∧ t.params = s.params ∧
      t.pending = s.pending ∧ t.antSel = s.antSel ∧
      ∀ b, b ≠ target → t.lastTx.at b = s.lastTx.at b

/-- INIT and BOOT leave STRM, TEST1 and TEST2, the parameters, the host's side and LASTTX at every
address but the seven they send to unchanged. -/
def Obligations.StartupFrame : Prop :=
  ∀ (i : Instr) (s t : State), i = .init ∨ i = .boot → exec i s = .next t →
    t.sh.strm = s.sh.strm ∧ t.sh.test1 = s.sh.test1 ∧ t.sh.test2 = s.sh.test2 ∧
      t.params = s.params ∧ t.pending = s.pending ∧ t.antSel = s.antSel ∧
      ∀ a, (∀ r ∈ initOrder, s.params.addr.get r ≠ a) → t.lastTx.at a = s.lastTx.at a

/-- HOOK leaves every shadow, the lines, LASTTX, the parameters and the host's side unchanged, and
emits nothing on the bus or the control lines. -/
def Obligations.HookFrame : Prop :=
  ∀ s t : State, exec .hook s = .next t →
    t.sh = s.sh ∧ t.pin = s.pin ∧ t.lastTx = s.lastTx ∧ t.params = s.params ∧
      t.pending = s.pending ∧ t.antSel = s.antSel ∧
      ∃ es, t.trace = s.trace ++ es ∧ (es = [] ∨ es = [reg, .done .success])

/-- 42_antenna.md sections 1 to 3: ANT and ANTS leave every shadow but CONF1, the phase, the lines, the
parameters, the inputs and LASTTX at every address but ADDR[CONF1] unchanged; the host's cell changes
under ANTS alone. That ANTS stores a parsed selection there in every phase, also where the handler is
refused, is the model's reading (log 12). -/
def Obligations.AntennaFrame : Prop :=
  ∀ (i : Instr) (s t : State) (cell : Nat), exec i s = .next t →
    (match i with
      | .ant _ _ => cell = s.antSel
      | .ants c => cell = if (parseAnt c).1 = true then (parseAnt c).2 else s.antSel
      | _ => False) →
    t.antSel = cell ∧ (∀ r, r ≠ .conf1 → t.sh.get r = s.sh.get r) ∧ t.phase = s.phase ∧ t.pin = s.pin ∧
      t.params = s.params ∧ t.pending = s.pending ∧
      ∀ a, a ≠ s.params.addr.conf1 → t.lastTx.at a = s.lastTx.at a

/-! ### Whole-machine rules -/

/-- 10_state.md section 6: every step keeps the invariant, from every state that meets it. -/
def Obligations.StepKeepsInv : Prop := ∀ s t : State, Inv s → step s = .next t → Inv t

/-- The invariant holds right after power-up, under every assignment. -/
def Obligations.PowerUpMeetsInv : Prop :=
  (∀ (p : Params) (sel : Nat) (inputs : List HostInput), Inv (State.powerOn p sel inputs)) ∧
  Inv State.reset

/-- Every step keeps the bus framed: one SEL, four XFER, DESEL, never interleaved, never left open. -/
def Obligations.StepKeepsBusFramed : Prop :=
  ∀ s t : State, framed s.trace = true → step s = .next t → framed t.trace = true

/-- 10_state.md section 4 (the trace) and 70_reset_and_hazards.md section 1 (the reset input): the trace
is append-only under every step, the reset input included. -/
def Obligations.TraceIsAppendOnly : Prop :=
  (∀ s t : State, step s = .next t → ∃ es, t.trace = s.trace ++ es) ∧
  ∀ (s t : State) (rest : List HostInput), s.pending = .reset :: rest → step s = .next t →
    t.trace = s.trace

/-- No step changes a parameter. -/
def Obligations.ParametersStayFixed : Prop :=
  ∀ s t : State, step s = .next t → t.params = s.params

/-- 10_state.md section 1: who writes which shadow, and that no admitted command reads an unwritten one. -/
def Obligations.ShadowWritersAndReaders : Prop :=
  (∀ (i : Instr) (s t : State) (r : RegName), exec i s = .next t → t.sh.get r ≠ s.sh.get r →
    ((i = .init ∨ i = .boot) ∧ s.phase = .reset ∧ r ∈ initOrder) ∨
      (r = .conf1 ∧ s.phase = .ready ∧
        ((∃ sel, i = .ant true sel) ∨ ∃ c, i = .ants c ∧ (parseAnt c).1 = true))) ∧
  ∀ (s : State) (r : RegName), Inv s → step s ≠ .fault (.unwrittenShadow r)

/-- 10_state.md section 2: the lines are moved only by INIT (or BOOT's INIT) in `P_RESET`, to
(0, 1, 1). -/
def Obligations.OnlyInitMovesTheLines : Prop :=
  ∀ (i : Instr) (s t : State), exec i s = .next t → t.pin ≠ s.pin →
    (i = .init ∨ i = .boot) ∧ s.phase = .reset ∧ t.pin = ⟨.low, .high, .high⟩

/-- 00_scope.md section 2 (non-goals): once INIT has run, an instruction changes nothing in the shadows
but the LNA-mode bits of CONF1. -/
def Obligations.OnlyTheLnaFieldChangesAfterInit : Prop :=
  ∀ (i : Instr) (s t : State), s.params.WellFormed → s.phase ≠ .reset → exec i s = .next t →
    (∀ r, r ≠ .conf1 → t.sh.get r = s.sh.get r) ∧
    (t.sh.conf1.map fun v => v &&& ~~~s.params.lnaMask) =
      s.sh.conf1.map fun v => v &&& ~~~s.params.lnaMask

/-- 10_state.md section 6 (I4), the spec's own inference: an instruction that is no raw write to ADDR[r] keeps the
shadow of r consistent with what was last sent there. -/
def Obligations.ShadowStaysConsistentWithWire : Prop :=
  ∀ (r : RegName) (i : Instr) (s t : State), s.params.W1 → Consistent r s →
    ¬ writesRaw s.params.addr r i → exec i s = .next t → Consistent r t

/-- R103: the three-state machine of the LNA-mode field in `P_READY`, and the field's value between
INIT and HOOK. -/
def Obligations.ModeStateMachine : Prop :=
  (∀ (ok : Bool) (sel : Nat) (s : State) (v : Word32), Inv s → s.params.WellFormed →
    ServicesAccept s → s.phase = .ready → s.sh.conf1 = some v →
    ∃ t v', exec (.ant ok sel) s = .next t ∧ t.sh.conf1 = some v' ∧
      v' &&& ~~~s.params.lnaMask = v &&& ~~~s.params.lnaMask ∧
      v' &&& s.params.lnaMask =
        (if ok = false then v &&& s.params.lnaMask
         else if sel = 1 then s.params.lnaIn1
         else if sel = 2 then s.params.lnaIn2
         else s.params.lnaGated) ∧
      transactions t.trace = transactions s.trace + (if ok = true then 1 else 0)) ∧
  (∀ s : State, Inv s → s.phase = .reset → s.sh.conf1 = none) ∧
  (∀ s : State, Inv s → s.params.WellFormed → s.phase = .init →
    ∃ v, s.sh.conf1 = some v ∧ v &&& s.params.lnaMask = s.params.lnaGated ∧
      ∀ (i : Instr) (t : State), exec i s = .next t → t.sh.conf1 = some v)

/-- 42_antenna.md section 3 (Q6, Q7), the spec's own inference: after any sequence of ANT commands the
last one that succeeded decides the CONF1 shadow, and each success sent one transaction. -/
def Obligations.LastSuccessfulAntWins : Prop :=
  ∀ (s : State) (v : Word32) (cmds : List (Bool × Nat)), Inv s → s.params.WellFormed →
    ServicesAccept s → s.phase = .ready → s.sh.conf1 = some v →
    ∃ t, presentAll (cmds.map fun c => .ant c.1 c.2) s = .next t ∧
      t.sh.conf1 = some (match (cmds.filter fun c => c.1).getLast? with
        | none => v
        | some c => newConf1 s.params s.params.initConf1 c.2) ∧
      transactions t.trace = transactions s.trace + (cmds.filter fun c => c.1).length

/-- 20_memory.md section 3 and 42_antenna.md section 3 (Q3): the same valid change twice sends the same word twice and
leaves the shadow as the first left it. -/
def Obligations.RepeatedChangeSendsTheSameWord : Prop :=
  ∀ (sel : Nat) (s : State) (v : Word32), ServicesAccept s → s.phase = .ready →
    s.sh.conf1 = some v →
    ∃ t u es, exec (.ant true sel) s = .next t ∧ exec (.ant true sel) t = .next u ∧
      t.trace = s.trace ++ es ∧ u.trace = t.trace ++ es ∧ transactions es = 1 ∧
      u.sh = t.sh ∧ u.lastTx = t.lastTx

/-- 42_antenna.md section 3 (Q4): INIT, HOOK, External, Auto leaves the CONF1 shadow as INIT wrote
it. -/
def Obligations.RoundTripRestoresInitConf1 : Prop :=
  ∀ s : State, s.params.WellFormed → s.phase = .reset → ServicesAccept s →
    ∃ t u, presentAll [.init, .hook] s = .next t ∧
      presentAll [.ants "External", .ants "Auto"] t = .next u ∧
      t.sh.conf1 = some s.params.initConf1 ∧ u.sh = t.sh ∧ u.lastTx = t.lastTx

/-- 42_antenna.md section 3 (Q8): what a successful ANT sends and stores depends on the old shadow
only through its bits outside the mask. -/
def Obligations.AntSeesOnlyBitsOutsideTheMask : Prop :=
  ∀ (sel : Nat) (s s' t t' : State) (v v' : Word32), s.params = s'.params →
    s.sh.conf1 = some v → s'.sh.conf1 = some v' →
    v &&& ~~~s.params.lnaMask = v' &&& ~~~s.params.lnaMask → s.phase = s'.phase →
    s.phase = .ready → exec (.ant true sel) s = .next t → exec (.ant true sel) s' = .next t' →
    t.sh.conf1 = t'.sh.conf1 ∧
      ∃ es, t.trace = s.trace ++ es ∧ t'.trace = s'.trace ++ es

/-- 70_reset_and_hazards.md section 3: a raw write to CONF1's address is undone by the next
successful ANT, which sends the old shadow with the new mode. -/
def Obligations.AntUndoesRawWriteToConf1 : Prop :=
  ∀ (p sel : Nat) (s : State) (v : Word32), ServicesAccept s → s.phase = .ready →
    s.sh.conf1 = some v →
    ∃ t u u', exec (.wrName .conf1 p) s = .next t ∧ t.sh = s.sh ∧
      t.lastTx.at s.params.addr.conf1 = some (BitVec.ofNat 28 p) ∧
      exec (.ant true sel) t = .next u ∧ exec (.ant true sel) s = .next u' ∧
      u.sh = u'.sh ∧ u.lastTx = u'.lastTx

/-- 10_state.md section 3: no command reads the ghost LASTTX: another ghost gives the same next state
but for the ghost. -/
def Obligations.GhostIsNeverRead : Prop :=
  ∀ (i : Instr) (s t : State) (g : LastTx), exec i s = .next t →
    ∃ t', exec i { s with lastTx := g } = .next t' ∧ t = { t' with lastTx := t.lastTx }

/-- 42_antenna.md section 1 (the notice) and 90_conflicts.md C3: turning the notice off takes the
NOTICE events from what an instruction emits and changes nothing else. -/
def Obligations.NoticeChangesNothingElse : Prop :=
  ∀ (i : Instr) (s t : State) (es : List Event), ServicesAccept s →
    exec i { s with params := { s.params with modelNotice := true } } = .next t →
    t.trace = s.trace ++ es →
    exec i { s with params := { s.params with modelNotice := false } } = .next
      { t with
        params := { s.params with modelNotice := false }
        trace := s.trace ++ es.filter fun e => match e with | .notice _ => false | _ => true }
end

