-- ==== Sys2Proof/Laws/State.lean ====
section
/-! SUPPORT. One lemma per field per update of the state, so that no proof unfolds a record update. -/

namespace Sys2Proof.Machine

/-! ### `writeShadow` -/

@[simp] theorem writeShadow_sh (r : RegName) (v : Word32) (s : State) : (writeShadow r v s).sh = s.sh.set r v := rfl
@[simp] theorem writeShadow_phase (r : RegName) (v : Word32) (s : State) : (writeShadow r v s).phase = s.phase := rfl
@[simp] theorem writeShadow_pin (r : RegName) (v : Word32) (s : State) : (writeShadow r v s).pin = s.pin := rfl
@[simp] theorem writeShadow_lastTx (r : RegName) (v : Word32) (s : State) : (writeShadow r v s).lastTx = s.lastTx := rfl
@[simp] theorem writeShadow_trace (r : RegName) (v : Word32) (s : State) : (writeShadow r v s).trace = s.trace := rfl
@[simp] theorem writeShadow_params (r : RegName) (v : Word32) (s : State) : (writeShadow r v s).params = s.params := rfl
@[simp] theorem writeShadow_pending (r : RegName) (v : Word32) (s : State) : (writeShadow r v s).pending = s.pending := rfl
@[simp] theorem writeShadow_antSel (r : RegName) (v : Word32) (s : State) : (writeShadow r v s).antSel = s.antSel := rfl
@[simp] theorem writeShadow_outcomes (r : RegName) (v : Word32) (s : State) : (writeShadow r v s).outcomes = s.outcomes := rfl
@[simp] theorem writeShadow_stallAfter (r : RegName) (v : Word32) (s : State) : (writeShadow r v s).stallAfter = s.stallAfter := rfl

/-! ### `setPhase` -/

@[simp] theorem setPhase_sh (x : Phase) (s : State) : (setPhase x s).sh = s.sh := rfl
@[simp] theorem setPhase_phase (x : Phase) (s : State) : (setPhase x s).phase = x := rfl
@[simp] theorem setPhase_pin (x : Phase) (s : State) : (setPhase x s).pin = s.pin := rfl
@[simp] theorem setPhase_lastTx (x : Phase) (s : State) : (setPhase x s).lastTx = s.lastTx := rfl
@[simp] theorem setPhase_trace (x : Phase) (s : State) : (setPhase x s).trace = s.trace := rfl
@[simp] theorem setPhase_params (x : Phase) (s : State) : (setPhase x s).params = s.params := rfl
@[simp] theorem setPhase_pending (x : Phase) (s : State) : (setPhase x s).pending = s.pending := rfl
@[simp] theorem setPhase_antSel (x : Phase) (s : State) : (setPhase x s).antSel = s.antSel := rfl
@[simp] theorem setPhase_outcomes (x : Phase) (s : State) : (setPhase x s).outcomes = s.outcomes := rfl
@[simp] theorem setPhase_stallAfter (x : Phase) (s : State) : (setPhase x s).stallAfter = s.stallAfter := rfl

/-! ### `storeAntSel` -/

@[simp] theorem storeAntSel_sh (sel : Nat) (s : State) : (storeAntSel sel s).sh = s.sh := rfl
@[simp] theorem storeAntSel_phase (sel : Nat) (s : State) : (storeAntSel sel s).phase = s.phase := rfl
@[simp] theorem storeAntSel_pin (sel : Nat) (s : State) : (storeAntSel sel s).pin = s.pin := rfl
@[simp] theorem storeAntSel_lastTx (sel : Nat) (s : State) : (storeAntSel sel s).lastTx = s.lastTx := rfl
@[simp] theorem storeAntSel_trace (sel : Nat) (s : State) : (storeAntSel sel s).trace = s.trace := rfl
@[simp] theorem storeAntSel_params (sel : Nat) (s : State) : (storeAntSel sel s).params = s.params := rfl
@[simp] theorem storeAntSel_pending (sel : Nat) (s : State) : (storeAntSel sel s).pending = s.pending := rfl
@[simp] theorem storeAntSel_antSel (sel : Nat) (s : State) : (storeAntSel sel s).antSel = sel := rfl
@[simp] theorem storeAntSel_outcomes (sel : Nat) (s : State) : (storeAntSel sel s).outcomes = s.outcomes := rfl
@[simp] theorem storeAntSel_stallAfter (sel : Nat) (s : State) : (storeAntSel sel s).stallAfter = s.stallAfter := rfl

/-! ### `record` -/

@[simp] theorem record_sh (o : CmdOutcome) (s : State) : (record o s).sh = s.sh := rfl
@[simp] theorem record_phase (o : CmdOutcome) (s : State) : (record o s).phase = s.phase := rfl
@[simp] theorem record_pin (o : CmdOutcome) (s : State) : (record o s).pin = s.pin := rfl
@[simp] theorem record_lastTx (o : CmdOutcome) (s : State) : (record o s).lastTx = s.lastTx := rfl
@[simp] theorem record_trace (o : CmdOutcome) (s : State) : (record o s).trace = s.trace := rfl
@[simp] theorem record_params (o : CmdOutcome) (s : State) : (record o s).params = s.params := rfl
@[simp] theorem record_pending (o : CmdOutcome) (s : State) : (record o s).pending = s.pending := rfl
@[simp] theorem record_antSel (o : CmdOutcome) (s : State) : (record o s).antSel = s.antSel := rfl
@[simp] theorem record_outcomes (o : CmdOutcome) (s : State) : (record o s).outcomes = s.outcomes ++ [o] := rfl
@[simp] theorem record_stallAfter (o : CmdOutcome) (s : State) : (record o s).stallAfter = s.stallAfter := rfl

/-! ### `powerUp` -/

@[simp] theorem powerUp_sh (s : State) : (powerUp s).sh = Shadows.unwritten := rfl
@[simp] theorem powerUp_phase (s : State) : (powerUp s).phase = .reset := rfl
@[simp] theorem powerUp_pin (s : State) : (powerUp s).pin = Pins.unconfigured := rfl
@[simp] theorem powerUp_lastTx (s : State) : (powerUp s).lastTx = Vector.replicate 16 none := rfl
@[simp] theorem powerUp_trace (s : State) : (powerUp s).trace = s.trace := rfl
@[simp] theorem powerUp_params (s : State) : (powerUp s).params = s.params := rfl
@[simp] theorem powerUp_pending (s : State) : (powerUp s).pending = s.pending := rfl
@[simp] theorem powerUp_antSel (s : State) : (powerUp s).antSel = s.antSel := rfl
@[simp] theorem powerUp_outcomes (s : State) : (powerUp s).outcomes = s.outcomes := rfl
@[simp] theorem powerUp_stallAfter (s : State) : (powerUp s).stallAfter = s.stallAfter := rfl

/-! ### `writePin` -/

@[simp] theorem writePin_sh (l : Line) (x : PinLevel) (s : State) :
    (writePin l x s).sh = s.sh := by cases l <;> rfl
@[simp] theorem writePin_phase (l : Line) (x : PinLevel) (s : State) :
    (writePin l x s).phase = s.phase := by cases l <;> rfl
@[simp] theorem writePin_lastTx (l : Line) (x : PinLevel) (s : State) :
    (writePin l x s).lastTx = s.lastTx := by cases l <;> rfl
@[simp] theorem writePin_trace (l : Line) (x : PinLevel) (s : State) :
    (writePin l x s).trace = s.trace := by cases l <;> rfl
@[simp] theorem writePin_params (l : Line) (x : PinLevel) (s : State) :
    (writePin l x s).params = s.params := by cases l <;> rfl
@[simp] theorem writePin_pending (l : Line) (x : PinLevel) (s : State) :
    (writePin l x s).pending = s.pending := by cases l <;> rfl
@[simp] theorem writePin_antSel (l : Line) (x : PinLevel) (s : State) :
    (writePin l x s).antSel = s.antSel := by cases l <;> rfl
@[simp] theorem writePin_outcomes (l : Line) (x : PinLevel) (s : State) :
    (writePin l x s).outcomes = s.outcomes := by cases l <;> rfl
@[simp] theorem writePin_stallAfter (l : Line) (x : PinLevel) (s : State) :
    (writePin l x s).stallAfter = s.stallAfter := by cases l <;> rfl
@[simp] theorem writePin_pgm_pin (x : PinLevel) (s : State) :
    (writePin .pgm x s).pin = { s.pin with pgm := x } := rfl
@[simp] theorem writePin_shdn_pin (x : PinLevel) (s : State) :
    (writePin .shdn x s).pin = { s.pin with shdn := x } := rfl
@[simp] theorem writePin_idle_pin (x : PinLevel) (s : State) :
    (writePin .idle x s).pin = { s.pin with idle := x } := rfl

/-! ### `State.powerOn` -/

@[simp] theorem powerOn_sh (p : Params) (sel : Nat) (inputs : List HostInput) :
    (State.powerOn p sel inputs).sh = Shadows.unwritten := rfl
@[simp] theorem powerOn_phase (p : Params) (sel : Nat) (inputs : List HostInput) :
    (State.powerOn p sel inputs).phase = .reset := rfl
@[simp] theorem powerOn_pin (p : Params) (sel : Nat) (inputs : List HostInput) :
    (State.powerOn p sel inputs).pin = Pins.unconfigured := rfl
@[simp] theorem powerOn_lastTx (p : Params) (sel : Nat) (inputs : List HostInput) :
    (State.powerOn p sel inputs).lastTx = Vector.replicate 16 none := rfl
@[simp] theorem powerOn_trace (p : Params) (sel : Nat) (inputs : List HostInput) :
    (State.powerOn p sel inputs).trace = [] := rfl
@[simp] theorem powerOn_params (p : Params) (sel : Nat) (inputs : List HostInput) :
    (State.powerOn p sel inputs).params = p := rfl
@[simp] theorem powerOn_pending (p : Params) (sel : Nat) (inputs : List HostInput) :
    (State.powerOn p sel inputs).pending = inputs := rfl
@[simp] theorem powerOn_antSel (p : Params) (sel : Nat) (inputs : List HostInput) :
    (State.powerOn p sel inputs).antSel = sel := rfl
@[simp] theorem powerOn_outcomes (p : Params) (sel : Nat) (inputs : List HostInput) :
    (State.powerOn p sel inputs).outcomes = [] := rfl
@[simp] theorem powerOn_stallAfter (p : Params) (sel : Nat) (inputs : List HostInput) :
    (State.powerOn p sel inputs).stallAfter = none := rfl

/-! ### Shadows and LASTTX: a read after a write -/

/-- A shadow read after a write gives the value written, and every other shadow is as before (R20). -/
theorem Shadows.get_set (sh : Shadows) (r r' : RegName) (v : Word32) :
    (sh.set r v).get r' = if r = r' then some v else sh.get r' := by
  cases r <;> cases r' <;> rfl

@[simp] theorem Shadows.get_set_self (sh : Shadows) (r : RegName) (v : Word32) :
    (sh.set r v).get r = some v := by simp [Shadows.get_set]

theorem Shadows.get_set_ne (sh : Shadows) {r r' : RegName} (v : Word32) (h : r ≠ r') :
    (sh.set r v).get r' = sh.get r' := by simp [Shadows.get_set, h]

@[simp] theorem Shadows.get_unwritten (r : RegName) : Shadows.unwritten.get r = none := by
  cases r <;> rfl

/-- LASTTX read after a write: the written address holds the payload, every other is as before (R25). -/
theorem LastTx.at_put (t : LastTx) (a b : Address) (v : Payload) :
    (t.put a v).at b = if a = b then some v else t.at b := by
  simp [LastTx.at, LastTx.put, Vector.getElem_set, BitVec.toNat_inj]

@[simp] theorem LastTx.at_put_self (t : LastTx) (a : Address) (v : Payload) :
    (t.put a v).at a = some v := by simp [LastTx.at_put]

theorem LastTx.at_put_ne (t : LastTx) {a b : Address} (v : Payload) (h : a ≠ b) :
    (t.put a v).at b = t.at b := by simp [LastTx.at_put, h]

@[simp] theorem LastTx.at_replicate_none (a : Address) :
    LastTx.at (Vector.replicate 16 none) a = none := by simp [LastTx.at]

/-- The block's part of the power-up state is what the reset input leaves (R140). -/
theorem powerUp_powerOn (p : Params) (sel : Nat) (inputs : List HostInput) :
    powerUp (State.powerOn p sel inputs) = State.powerOn p sel inputs := rfl

end Sys2Proof.Machine
end

