-- ==== Sys2Proof/Laws/Ops.lean ====
section
/-! SUPPORT. What each shared operation can do, said once: its result when every service accepts, and
its inversion when it answers a next state. -/

namespace Sys2Proof.Machine

open Sys2Proof.Safety

/-! ### Sequencing -/

@[simp] theorem andThen_next (s : State) (f : State → Result) : andThen (.next s) f = f s := rfl
@[simp] theorem andThen_fault (r : Fault) (f : State → Result) : andThen (.fault r) f = .fault r := rfl
@[simp] theorem andThen_refused (r : Refusal) (f : State → Result) :
    andThen (.refused r) f = .refused r := rfl

theorem andThen_assoc (x : Result) (f g : State → Result) :
    andThen (andThen x f) g = andThen x fun s => andThen (f s) g := by
  cases x <;> rfl

theorem andThen_eq_next {x : Result} {f : State → Result} {t : State} :
    andThen x f = .next t ↔ ∃ s, x = .next s ∧ f s = .next t := by
  cases x <;> simp [andThen]

/-! ### Events -/

/-- `emit` when every service accepts (R129). -/
theorem emit_accepted {s : State} (e : Event) (h : ServicesAccept s) :
    emit e s = .next { s with trace := s.trace ++ [e] } := by
  simp [emit, ServicesAccept] at *; simp [h]

/-- Everything `emit` can do when it answers a next state. -/
theorem emit_eq_next {e : Event} {s t : State} (h : emit e s = .next t) :
    t = { s with trace := s.trace ++ [e], stallAfter := s.stallAfter.map (· - 1) } := by
  unfold emit at h
  split at h <;> simp_all

/-- `emitAll` when every service accepts: the events join the trace in order (R50). -/
theorem emitAll_accepted (es : List Event) {s : State} (h : ServicesAccept s) :
    emitAll es s = .next { s with trace := s.trace ++ es } := by
  induction es generalizing s with
  | nil => simp [emitAll]
  | cons e es ih => rw [emitAll, emit_accepted e h, andThen_next, ih (by exact h)]; simp

/-- Everything `emitAll` can do when it answers a next state. -/
theorem emitAll_eq_next {es : List Event} {s t : State} (h : emitAll es s = .next t) :
    t = { s with trace := s.trace ++ es, stallAfter := s.stallAfter.map (· - es.length) } := by
  induction es generalizing s with
  | nil => simp [emitAll] at h; simp [← h]
  | cons e es ih =>
    obtain ⟨u, hu, ht⟩ := andThen_eq_next.1 h
    rw [ih ht, emit_eq_next hu]
    cases s.stallAfter <;> simp [Nat.sub_sub, Nat.add_comm]

/-- A step of emission never refuses. -/
theorem emitAll_ne_refused (es : List Event) (s : State) (r : Refusal) : emitAll es s ≠ .refused r := by
  induction es generalizing s with
  | nil => simp [emitAll]
  | cons e es ih =>
    unfold emitAll emit
    split <;> simp [ih]

/-! ### One bus transaction -/

@[simp] theorem transaction_length (p : Params) (w : Word32) : (transaction p w).length = 6 := rfl

/-- `Xmit` when every service accepts (R83). -/
theorem xmit_accepted (w : Word32) {s : State} (h : ServicesAccept s) :
    xmit w s = .next { s with
      trace := s.trace ++ transaction s.params w
      lastTx := s.lastTx.put (wireAddress w) (wirePayload w) } := by
  simp [xmit, emitAll_accepted _ h]

/-- Everything `Xmit` can do when it answers a next state. -/
theorem xmit_eq_next {w : Word32} {s t : State} (h : xmit w s = .next t) :
    t = { s with
      trace := s.trace ++ transaction s.params w
      lastTx := s.lastTx.put (wireAddress w) (wirePayload w)
      stallAfter := s.stallAfter.map (· - 6) } := by
  obtain ⟨u, hu, ht⟩ := andThen_eq_next.1 h
  have := emitAll_eq_next hu
  simp_all

/-! ### How a command ends -/

/-- `done(st)` when every service accepts (R120). -/
theorem complete_accepted (st : Status) {s : State} (h : ServicesAccept s) :
    complete st s = .next { s with
      trace := s.trace ++ [.done st]
      outcomes := s.outcomes ++ [.completed st] } := by
  simp [complete, emit_accepted _ h, record]

/-- Everything `done(st)` can do when it answers a next state. -/
theorem complete_eq_next {st : Status} {s t : State} (h : complete st s = .next t) :
    t = { s with
      trace := s.trace ++ [.done st]
      outcomes := s.outcomes ++ [.completed st]
      stallAfter := s.stallAfter.map (· - 1) } := by
  obtain ⟨u, hu, ht⟩ := andThen_eq_next.1 h
  have := emit_eq_next hu
  simp_all [record]

/-- A refusal leaves the state but for the host's record (R122). -/
theorem refuse_eq (r : Reason) (s : State) : refuse r s = .next (refusedWith r s) := rfl

/-! ### Reading a shadow -/

theorem readShadow_some {r : RegName} {s : State} {v : Word32} (k : Word32 → Result)
    (h : s.sh.get r = some v) : readShadow r s k = k v := by simp [readShadow, h]

/-- A read that leads to a next state found a value. -/
theorem readShadow_eq_next {r : RegName} {s t : State} {k : Word32 → Result}
    (h : readShadow r s k = .next t) : ∃ v, s.sh.get r = some v ∧ k v = .next t := by
  unfold readShadow at h
  split at h
  · exact ⟨_, ‹_›, h⟩
  · cases h

/-! ### The building blocks of the commands, when every service accepts -/

/-- `MemWrite(a, 4, p)` (R10, R84). -/
theorem memWrite_accepted (a p : Nat) {s : State} (h : ServicesAccept s) :
    memWrite a p s = .next { s with
      trace := s.trace ++ transaction s.params (encodeWire a p)
      lastTx := s.lastTx.put (wireAddress (encodeWire a p)) (wirePayload (encodeWire a p)) } :=
  xmit_accepted _ h

/-- Sending the whole of a shadow that holds `v` (R46). -/
theorem sendShadow_held {r : RegName} {s : State} {v : Word32} (hv : s.sh.get r = some v) :
    sendShadow r s = memWrite (s.params.addr.get r).toNat v.toNat s := by
  simp [sendShadow, readShadow_some _ hv]

/-- INIT's step for one register: the shadow is stored before it is sent (R51). -/
theorem storeAndSend_eq (r : RegName) (v : Word32) (s : State) :
    storeAndSend r v s = memWrite (s.params.addr.get r).toNat v.toNat (writeShadow r v s) := by
  simp [storeAndSend, sendShadow, readShadow]

/-- INIT step 1: six events, and the lines at (0, 1, 1) (R91). -/
theorem driveControlLines_accepted {s : State} (h : ServicesAccept s) :
    driveControlLines s = .next { s with
      trace := s.trace ++ gpio6 s.params
      pin := ⟨.low, .high, .high⟩ } := by
  cases s
  cases h
  simp [driveControlLines, holdLow, holdHigh, emitAll_accepted, writePin, gpio6, Params.pull]

/-- ANT step 2: the CONF1 shadow holds the replaced field (R101). -/
theorem replaceLnaMode_some {s : State} {old : Word32} (sel : Nat) (hv : s.sh.get .conf1 = some old) :
    replaceLnaMode sel s = .next
      (writeShadow .conf1 (replaceField s.params.lnaMask old (modePattern s.params sel)) s) := by
  simp [replaceLnaMode, readShadow_some _ hv]

/-- ANT step 4: the notice, where it is kept (R104). -/
theorem emitNotice_accepted (sel : Nat) {s : State} (h : ServicesAccept s) :
    emitNotice sel s = .next { s with trace := s.trace ++ noticeOf s.params sel } := by
  unfold emitNotice noticeOf
  cases s.params.modelNotice
  · simp
  · simp [emit_accepted _ h]; rfl

end Sys2Proof.Machine
end

