-- ==== Sys2Proof/Laws/Budget.lean ====
section
/-! SUPPORT. What the services' budget (R129) does to an operation: run with the budget lifted, it
either stops for its own reason or emits some events; with k events still to be accepted it is stuck at
the first one beyond the k-th, or does the same. Each way of building operations keeps this. -/

namespace Sys2Proof.Machine

/-- `s` with every event accepted. -/
def lifted (s : State) : State := { s with stallAfter := none }

/-- `s` with `k` more events accepted. -/
def limited (k : Nat) (s : State) : State := { s with stallAfter := some k }

@[simp] theorem lifted_stallAfter (s : State) : (lifted s).stallAfter = none := rfl
@[simp] theorem lifted_trace (s : State) : (lifted s).trace = s.trace := rfl
@[simp] theorem lifted_limited (k : Nat) (s : State) : lifted (limited k s) = lifted s := rfl
@[simp] theorem lifted_lifted (s : State) : lifted (lifted s) = lifted s := rfl
@[simp] theorem limited_lifted (k : Nat) (s : State) : limited k (lifted s) = limited k s := rfl
@[simp] theorem limited_limited (j k : Nat) (s : State) : limited j (limited k s) = limited j s := rfl
theorem lifted_eq_self {s : State} (h : s.stallAfter = none) : lifted s = s := by
  cases s; cases h; rfl

/-- `f` treats the budget as R129 says. -/
def Budgeted (f : State → Result) : Prop :=
  ∀ s : State,
    (∃ t es, f (lifted s) = .next t ∧ t.stallAfter = none ∧ t.trace = s.trace ++ es ∧
      ∀ k, f (limited k s) =
        if h : k < es.length then .fault (.stuck es[k]) else .next (limited (k - es.length) t)) ∨
    (∃ r, f (lifted s) = .fault r ∧ ∀ k, ∃ r', f (limited k s) = .fault r')

/-- An update that sees neither the budget nor the trace. -/
def Quiet (u : State → State) : Prop :=
  ∀ s, (u (lifted s)).stallAfter = none ∧ (u (lifted s)).trace = s.trace ∧
    ∀ k, u (limited k s) = limited k (u (lifted s))

theorem Budgeted.emit (e : Event) : Budgeted (emit e) := fun s =>
  .inl ⟨_, [e], rfl, rfl, rfl, fun k => by cases k <;> rfl⟩

theorem Budgeted.pure {u : State → State} (h : Quiet u) : Budgeted fun s => .next (u s) := fun s =>
  .inl ⟨_, [], rfl, (h s).1, by simp [(h s).2.1], fun k => by simp [(h s).2.2]⟩

/-- Sequencing keeps the treatment of the budget. -/
theorem Budgeted.andThen {f g : State → Result} (hf : Budgeted f) (hg : Budgeted g) :
    Budgeted fun s => andThen (f s) g := by
  intro s
  rcases hf s with ⟨t, es, ht, hn, htr, hk⟩ | ⟨r, hr, hk⟩
  · have hl : lifted t = t := lifted_eq_self hn
    rcases hg t with ⟨u, es', hu, hn', htr', hk'⟩ | ⟨r, hr, hk'⟩
    · refine .inl ⟨u, es ++ es', ?_, hn', ?_, fun k => ?_⟩
      · change Machine.andThen (f (lifted s)) g = _
        rw [ht, andThen_next, ← hl, hu]
      · simp [htr', htr]
      · simp only [hk]
        by_cases h : k < es.length
        · have : k < es.length + es'.length := by omega
          simp [h, this]
        · simp only [h, dite_false, andThen_next, hk', List.length_append]
          by_cases h' : k - es.length < es'.length
          · have : k < es.length + es'.length := by omega
            simp [h', this, List.getElem_append_right (Nat.le_of_not_lt h)]
          · have : ¬ k < es.length + es'.length := by omega
            simp [h', this, Nat.sub_sub]
    · refine .inr ⟨r, by change Machine.andThen (f (lifted s)) g = _; rw [ht, andThen_next, ← hl, hr],
        fun k => ?_⟩
      simp only [hk]
      split
      · exact ⟨_, rfl⟩
      · exact hk' _
  · refine .inr ⟨r, by simp [hr], fun k => ?_⟩
    obtain ⟨r', h'⟩ := hk k
    exact ⟨r', by simp [h']⟩

/-- An operation chosen by what the budget does not touch. -/
theorem Budgeted.choose {α : Type} {c : State → α} {f : α → State → Result}
    (hc : ∀ s, c (lifted s) = c s ∧ ∀ k, c (limited k s) = c s) (hf : ∀ a, Budgeted (f a)) :
    Budgeted fun s => f (c s) s := by
  intro s
  simp only [(hc s).1, (hc s).2]
  exact hf (c s) s

theorem Budgeted.emitAll : ∀ es : List Event, Budgeted (emitAll es)
  | [] => Budgeted.pure (u := id) fun _ => ⟨rfl, rfl, fun _ => rfl⟩
  | e :: es => Budgeted.andThen (Budgeted.emit e) (Budgeted.emitAll es)

theorem Budgeted.refuse (r : Reason) : Budgeted (refuse r) :=
  Budgeted.pure (u := record (.refused r)) fun _ => ⟨rfl, rfl, fun _ => rfl⟩

theorem Budgeted.complete (st : Status) : Budgeted (complete st) :=
  Budgeted.andThen (Budgeted.emit _) (Budgeted.pure fun _ => ⟨rfl, rfl, fun _ => rfl⟩)

theorem Budgeted.xmit (w : Word32) : Budgeted (xmit w) :=
  Budgeted.andThen
    (Budgeted.choose (c := fun s => transaction s.params w) (f := Machine.emitAll)
      (fun _ => ⟨rfl, fun _ => rfl⟩) Budgeted.emitAll)
    (Budgeted.pure (u := fun s => { s with lastTx := s.lastTx.put (wireAddress w) (wirePayload w) })
      fun _ => ⟨rfl, rfl, fun _ => rfl⟩)

/-- Reading a shadow and going on with its value. -/
theorem Budgeted.readShadow (r : RegName) {k : Word32 → State → Result} (hk : ∀ v, Budgeted (k v)) :
    Budgeted fun s => readShadow r s fun v => k v s := by
  intro s
  unfold Machine.readShadow
  cases h : s.sh.get r with
  | none => exact .inr ⟨.unwrittenShadow r, by simp [lifted, h], fun j => ⟨_, by simp [limited, h]; rfl⟩⟩
  | some v => simpa [lifted, limited, h] using hk v s

theorem Budgeted.memWrite (a p : Nat) : Budgeted (memWrite a p) := Budgeted.xmit _

theorem Budgeted.sendShadow (r : RegName) : Budgeted (sendShadow r) :=
  Budgeted.readShadow r fun v =>
    Budgeted.choose (c := fun s => (s.params.addr.get r).toNat)
      (f := fun a => Machine.memWrite a v.toNat)
      (fun _ => ⟨rfl, fun _ => rfl⟩) fun a => Budgeted.memWrite a _

theorem Budgeted.storeAndSend (r : RegName) (v : Word32) : Budgeted (storeAndSend r v) :=
  Budgeted.andThen (f := fun s => .next (writeShadow r v s))
    (Budgeted.pure fun _ => ⟨rfl, rfl, fun _ => rfl⟩) (Budgeted.sendShadow r)

theorem Budgeted.storeAndSendAll : ∀ l : List (RegName × Word32), Budgeted (storeAndSendAll l)
  | [] => Budgeted.pure (u := id) fun _ => ⟨rfl, rfl, fun _ => rfl⟩
  | (r, v) :: rest => Budgeted.andThen (Budgeted.storeAndSend r v) (Budgeted.storeAndSendAll rest)

theorem Budgeted.holdLow (l : Line) : Budgeted (holdLow l) :=
  Budgeted.andThen
    (Budgeted.choose (c := fun s => [Event.gpioCfg l (s.params.pull l), .gpioClr l])
      (f := Machine.emitAll) (fun _ => ⟨rfl, fun _ => rfl⟩) Budgeted.emitAll)
    (Budgeted.pure fun _ => by cases l <;> exact ⟨rfl, rfl, fun _ => rfl⟩)

theorem Budgeted.holdHigh (l : Line) : Budgeted (holdHigh l) :=
  Budgeted.andThen
    (Budgeted.choose (c := fun s => [Event.gpioCfg l (s.params.pull l), .gpioSet l])
      (f := Machine.emitAll) (fun _ => ⟨rfl, fun _ => rfl⟩) Budgeted.emitAll)
    (Budgeted.pure fun _ => by cases l <;> exact ⟨rfl, rfl, fun _ => rfl⟩)

end Sys2Proof.Machine
end

