-- ==== Sys2Proof/Laws/PerInstr.lean ====
section
/-! SUPPORT. A statement about every instruction as syntax, one lemma per constructor: the expansion of
a well-formed instruction (R74) is made of well-formed commands (R66), and there is at least one. -/

namespace Sys2Proof.Laws.Expansion

/-- The expansion of a well-formed instruction is a non-empty list of well-formed commands. -/
def Statement (i : Instr) : Prop :=
  i.wellFormed = true → ∀ addr : AddrMap, expand addr i ≠ [] ∧
    ∀ c ∈ expand addr i, c.isCommand = true ∧ c.wellFormed = true

/-- `ParseAnt` gives a selection that fits two bits (R105). -/
theorem parseAnt_lt (s : String) : (parseAnt s).2 < 2 ^ 2 := by
  unfold parseAnt
  simp only [Config.selAuto, Config.selPatch, Config.selExternal]
  split_ifs <;> decide

theorem wr (a p : Nat) : Statement (.wr a p) := fun h addr => by
  simpa [expand, Instr.isCommand] using h

theorem init : Statement .init := fun _ addr => by simp [expand, Instr.isCommand, Instr.wellFormed]

theorem hook : Statement .hook := fun _ addr => by simp [expand, Instr.isCommand, Instr.wellFormed]

theorem ant (ok : Bool) (sel : Nat) : Statement (.ant ok sel) := fun h addr => by
  simpa [expand, Instr.isCommand] using h

theorem ants (candidate : String) : Statement (.ants candidate) := fun _ addr => by
  have := parseAnt_lt candidate
  simp [expand, Instr.isCommand, Instr.wellFormed]
  omega

theorem wrName (r : RegName) (p : Nat) : Statement (.wrName r p) := fun h addr => by
  have := (addr.get r).isLt
  simp [Instr.wellFormed] at h
  simp [expand, Instr.isCommand, Instr.wellFormed]
  omega

theorem boot : Statement .boot := fun _ addr => by simp [expand, Instr.isCommand, Instr.wellFormed]

end Sys2Proof.Laws.Expansion
end

