-- ==== Sys2Proof/Laws/Step.lean ====
section
/-! SUPPORT. Everything one step can do, and the small lemmas of the trace functions claims use. -/

namespace Sys2Proof.Machine

open Sys2Proof.Safety

/-- Everything a step can do when it answers a next state: the block waits, a command runs, a packed
word is refused, or the reset input acts. -/
theorem step_eq_next {s t : State} (h : step s = .next t) :
    (s.pending = [] ∧ t = s) ∨
    (∃ input rest i, s.pending = input :: rest ∧ request input = .run i ∧
      exec i { s with pending := rest } = .next t) ∨
    (∃ input rest r, s.pending = input :: rest ∧ request input = .reject r ∧
      t = refusedWith r { s with pending := rest }) ∨
    (∃ input rest, s.pending = input :: rest ∧ request input = .powerUp ∧
      t = powerUp { s with pending := rest }) := by
  unfold step takeInput at h
  cases hp : s.pending with
  | nil => rw [hp] at h; exact .inl ⟨rfl, (Host.Outcome.next.inj h).symm⟩
  | cons input rest =>
    simp only [hp] at h
    cases hq : request input with
    | run i => rw [hq] at h; exact .inr (.inl ⟨input, rest, i, rfl, hq, h⟩)
    | reject r =>
      rw [hq] at h
      exact .inr (.inr (.inl ⟨input, rest, r, rfl, hq, (Host.Outcome.next.inj h).symm⟩))
    | powerUp =>
      rw [hq] at h
      exact .inr (.inr (.inr ⟨input, rest, rfl, hq, (Host.Outcome.next.inj h).symm⟩))

/-- Only the reset input asks for power-up. -/
theorem request_eq_powerUp {input : HostInput} (h : request input = .powerUp) : input = .reset := by
  cases input with
  | word cw => cases hd : decode cw <;> simp [request, hd] at h
  | command i => cases h
  | reset => rfl

@[simp] theorem transactions_append (a b : List Event) :
    transactions (a ++ b) = transactions a + transactions b := by simp [transactions]

@[simp] theorem doneStatuses_append (a b : List Event) :
    doneStatuses (a ++ b) = doneStatuses a ++ doneStatuses b := by simp [doneStatuses]

@[simp] theorem completedStatuses_append (a b : List CmdOutcome) :
    completedStatuses (a ++ b) = completedStatuses a ++ completedStatuses b := by
  simp [completedStatuses]

/-- After whole transactions, whether the bus is framed depends on the rest alone. -/
theorem framed_append {a : List Event} (b : List Event) (h : framed a = true) :
    framed (a ++ b) = framed b := by
  induction a using framed.induct <;> simp_all [framed]

@[simp] theorem transactions_tx (p : Params) (w : Nat) : transactions (tx p w) = 1 := rfl
@[simp] theorem doneStatuses_tx (p : Params) (w : Nat) : doneStatuses (tx p w) = [] := rfl
@[simp] theorem framed_tx (p : Params) (w : Nat) : framed (tx p w) = true := rfl

@[simp] theorem transactions_noticeOf (p : Params) (sel : Nat) : transactions (noticeOf p sel) = 0 := by
  unfold noticeOf; split <;> rfl
@[simp] theorem doneStatuses_noticeOf (p : Params) (sel : Nat) : doneStatuses (noticeOf p sel) = [] := by
  unfold noticeOf; split <;> rfl
@[simp] theorem framed_noticeOf (p : Params) (sel : Nat) : framed (noticeOf p sel) = true := by
  unfold noticeOf; split <;> rfl

end Sys2Proof.Machine
end

