-- ==== Sys2Proof/Machine/Assembler.lean ====
section
/-! DEFINITION. The assembler syntax of 30_encoding.md R73 with the pseudo-instructions of R74: one
line of text to the instruction it names. No step of the machine reads text. -/

namespace Sys2Proof.Machine

/-- A token of a line: a bare word, a comma, or a quoted string. -/
inductive Token where
  | word (s : String)
  | comma
  | quoted (s : String)
  deriving DecidableEq, Repr

/-- Where the tokeniser stands: outside quotes or inside, with the characters read so far, last first. -/
inductive TokenMode where
  | plain (cur : List Char)
  | inQuotes (cur : List Char)

/-- The bare word read so far, if any, before the tokens that follow it. -/
def flushWord (cur : List Char) (ts : List Token) : List Token :=
  if cur.isEmpty then ts else .word (String.ofList cur.reverse) :: ts

/-- The tokens of a line; `;` starts a comment (R73). `none`: a string is not closed. -/
def tokens : List Char → TokenMode → Option (List Token)
  | [], .plain cur => some (flushWord cur [])
  | [], .inQuotes _ => none
  | c :: rest, .plain cur =>
    if c = ';' then some (flushWord cur [])
    else if c = '"' then (tokens rest (.inQuotes [])).map (flushWord cur)
    else if c = ',' then (tokens rest (.plain [])).map fun ts => flushWord cur (.comma :: ts)
    else if c = ' ' ∨ c = '\t' then (tokens rest (.plain [])).map (flushWord cur)
    else tokens rest (.plain (c :: cur))
  | c :: rest, .inQuotes cur =>
    if c = '"' then
      (tokens rest (.plain [])).map fun ts => .quoted (String.ofList cur.reverse) :: ts
    else tokens rest (.inQuotes (c :: cur))

/-- The value of a digit in base 16. -/
def digitValue (c : Char) : Option Nat :=
  if '0' ≤ c ∧ c ≤ '9' then some (c.toNat - '0'.toNat)
  else if 'a' ≤ c ∧ c ≤ 'f' then some (c.toNat - 'a'.toNat + 10)
  else if 'A' ≤ c ∧ c ≤ 'F' then some (c.toNat - 'A'.toNat + 10)
  else none

/-- Digits of a base after a value already read. -/
def digits (base : Nat) : Nat → List Char → Option Nat
  | acc, [] => some acc
  | acc, c :: rest =>
    match digitValue c with
    | some d => if d < base then digits base (acc * base + d) rest else none
    | none => none

/-- "integers are decimal or `0x` hexadecimal" (R73). -/
def parseNumber (s : String) : Option Nat :=
  match s.toList with
  | [] => none
  | ['0', 'x'] => none
  | '0' :: 'x' :: rest => digits 16 0 rest
  | cs => digits 10 0 cs

/-- The register names of R73. -/
def parseRegName (s : String) : Option RegName :=
  [("CONF1", RegName.conf1), ("CONF2", .conf2), ("CONF3", .conf3), ("PLLCONF", .pllconf),
   ("DIV", .div), ("FDIV", .fdiv), ("STRM", .strm), ("CLK", .clk), ("TEST1", .test1),
   ("TEST2", .test2)].lookup s

/-- `<sel>`: an integer, or one of the three names (R73). -/
def parseSel (s : String) : Option Nat :=
  match parseAnt s with
  | (true, sel) => some sel
  | (false, _) => parseNumber s

/-- `<ok>`: 0 or 1 (R73). -/
def parseOk (s : String) : Option Bool :=
  match parseNumber s with
  | some 0 => some false
  | some 1 => some true
  | _ => none

/-- The instruction a line's tokens name, before the ranges are checked. -/
def parseTokens : List Token → Option Instr
  | [.word m] =>
    if m = "INIT" then some .init
    else if m = "HOOK" then some .hook
    else if m = "BOOT" then some .boot
    else none
  | [.word m, .quoted s] => if m = "ANTS" then some (.ants s) else none
  | [.word m, .word x, .comma, .word y] =>
    if m = "WR" then
      match parseRegName x with
      | some r => (parseNumber y).map (.wrName r)
      | none => (parseNumber x).bind fun a => (parseNumber y).map (.wr a)
    else if m = "ANT" then (parseOk x).bind fun ok => (parseSel y).map (.ant ok)
    else none
  | _ => none

/-- The instruction a line of assembly names; operands outside the ranges of R73 are no line of it,
and neither is an empty line or a comment. -/
def assembleLine (line : String) : Option Instr :=
  ((tokens line.toList (.plain [])).bind parseTokens).filter Instr.wellFormed

end Sys2Proof.Machine
end

