-- ==== Sys2Proof/Tests/Slice0.lean ====
section
/-! SUPPORT. Checks of the model on the vectors of 95_test_vectors.md and on the examples of the rules,
and for every statement with hypotheses a concrete state that meets them all. -/

namespace Sys2Proof.Tests

open Sys2Proof.Machine Sys2Proof.Safety

/-! ### Parameter sets and states -/

/-- T1 of 95_test_vectors.md section 0. -/
def t1 : Params where
  addr := Config.decidedAddr
  lnaMask := 0x00006000
  lnaGated := 0x00000000
  lnaIn1 := 0x00004000
  lnaIn2 := 0x00002000
  initConf1 := 0x0A2919A3
  initConf2 := 0x00550288
  initConf3 := 0x0EAFF1DC
  initPllconf := 0x09EC0008
  initDiv := 0x00C00080
  initFdiv := 0x08000070
  initClk := 0x010061B2
  devFe := ⟨7⟩
  busFe := ⟨9⟩
  pullPgm := ⟨1⟩
  pullShdn := ⟨2⟩
  pullIdle := ⟨3⟩
  modelNotice := true

/-- T2: bits 31 to 28 of `INIT_CONF1` set. -/
def t2 : Params := { t1 with initConf1 := 0xFA2919A3 }

/-- T3: a mask wholly above bit 27. -/
def t3 : Params :=
  { t1 with lnaMask := 0x30000000, lnaGated := 0, lnaIn1 := 0x10000000, lnaIn2 := 0x20000000 }

/-- `TX(b0 b1 b2 b3)` under T1. -/
def txT1 (b0 b1 b2 b3 : Byte) : List Event :=
  [.sel ⟨7⟩, .xfer ⟨9⟩ b0, .xfer ⟨9⟩ b1, .xfer ⟨9⟩ b2, .xfer ⟨9⟩ b3, .desel]

/-- Whether an operation answered a next state. -/
def goesOn : Result → Bool
  | .next _ => true
  | .fault _ => false
  | .refused _ => false

/-- The state an operation left; the state after power-up where it left none. -/
def left : Result → State
  | .next s => s
  | .fault _ => State.powerOn t1 0 []
  | .refused _ => State.powerOn t1 0 []

theorem eq_next_left {x : Result} (h : goesOn x = true) : x = .next (left x) := by
  cases x <;> simp_all [goesOn, left]

/-- The reset state of the vectors. -/
def off : State := State.powerOn t1 0 []
/-- The end state of vector I1. -/
def inited : State := left (exec .init off)
/-- The end state of vector H1. -/
def ready : State := left (exec .hook inited)
/-- The end state of vector A1. -/
def patched : State := left (exec (.ant true 1) ready)
/-- The end state of H1 under T2. -/
def ready2 : State := left (exec .boot (State.powerOn t2 0 []))
/-- The end state of H1 under T3. -/
def ready3 : State := left (exec .boot (State.powerOn t3 0 []))
/-- `ready` with a host about to present `inputs`. -/
def presented (inputs : List HostInput) : State := { ready with pending := inputs }

/-! ### Well-formedness -/

theorem test_wellFormed_wr : (Instr.wr 0xFF 0xFFFFFFFF).wellFormed = true := by decide
theorem test_illFormed_wr_address : (Instr.wr 256 0).wellFormed = false := by decide
theorem test_illFormed_wr_payload : (Instr.wr 0 (2 ^ 32)).wellFormed = false := by decide
theorem test_illFormed_ant : (Instr.ant true 4).wellFormed = false := by decide
theorem test_illFormed_wrName : (Instr.wrName .conf1 (2 ^ 32)).wellFormed = false := by decide
theorem test_params_wellFormed : t1.WellFormed ∧ t2.WellFormed ∧ t3.WellFormed := by decide
theorem test_params_illFormed :
    ¬ { t1 with addr := { t1.addr with clk := 0 } }.W1 ∧ ¬ { t1 with lnaIn1 := 0x8000 }.W2 ∧
      ¬ { t1 with lnaIn1 := 0x2000 }.W3 ∧ ¬ { t1 with initConf1 := 0x4000 }.W4 ∧
      ¬ { t1 with lnaMask := 0 }.W5 := by decide

/-! ### Decoding and encoding: 95_test_vectors.md section 2.6 -/

theorem test_decode_wr :
    decode 0x100912345678#48 = .ok (.wr 0x09 0x12345678) ∧
    decode 0x10FFFFFFFFFF#48 = .ok (.wr 0xFF 0xFFFFFFFF) ∧
    decode 0x110912345678#48 = .error .rsvdBits := by decide
theorem test_decode_init :
    decode 0x200000000000#48 = .ok .init ∧ decode 0x200000000001#48 = .error .rsvdBits := by decide
theorem test_decode_hook :
    decode 0x300000000000#48 = .ok .hook ∧ decode 0x300000010000#48 = .error .rsvdBits := by decide
theorem test_decode_ant :
    decode 0x400000000005#48 = .ok (.ant true 1) ∧ decode 0x400000000003#48 = .ok (.ant false 3) ∧
    decode 0x400000000008#48 = .error .rsvdBits := by decide
theorem test_decode_reserved :
    decode 0x000000000000#48 = .error .rsvdOp ∧ decode 0x500000000000#48 = .error .rsvdOp ∧
    decode 0xF00000000000#48 = .error .rsvdOp := by decide
/-- WR written out field by field from R64: op, four zeros, `a`, `p`. -/
theorem test_decode_wr_bits :
    decode (0b0001#4 ++ 0b0000#4 ++ 0b00001001#8 ++ 0b00010010001101000101011001111000#32) =
      .ok (.wr 9 0x12345678) := by decide
theorem test_encode_commands :
    encode t1.addr (.wr 9 0x12345678) = [0x100912345678#48] ∧
    encode t1.addr .init = [0x200000000000#48] ∧ encode t1.addr .hook = [0x300000000000#48] ∧
    encode t1.addr (.ant true 1) = [0x400000000005#48] ∧
    encode t1.addr (.ant false 3) = [0x400000000003#48] := by decide
theorem test_encode_pseudo :
    encode t1.addr (.ants "External") = [0x400000000006#48] ∧
    encode t1.addr (.ants "Banana") = [0x400000000000#48] ∧
    encode t1.addr (.wrName .strm 0x08000000) = [0x100608000000#48] ∧
    encode t1.addr .boot = [0x200000000000#48, 0x300000000000#48] := by decide
theorem test_encode_illFormed : encode t1.addr (.wr 256 0) = [] := by decide
theorem test_decodeTableWord :
    decodeTableWord 48 0x400000000005 = some (.ant true 1) ∧
    decodeTableWord 48 0x500000000000 = none := by decide

/-! ### The codec: 95_test_vectors.md section 2.1 -/

/-- E3, E4, E5, E13, E14, E15, E17, E26. -/
theorem test_encodeWire :
    encodeWire 0x1F 0 = 0x0000000F#32 ∧ encodeWire 0 0x10000000 = 0x00000000#32 ∧
    encodeWire 0x03 0x0FFFFFFF = 0xFFFFFFF3#32 ∧ encodeWire 0xFF 0xFFFFFFFF = 0xFFFFFFFF#32 ∧
    encodeWire 0x0A 0xF0000000 = 0x0000000A#32 ∧ encodeWire 0x09 0x12345678 = 0x23456789#32 ∧
    encodeWire 0x06 0x08000000 = 0x80000006#32 ∧ encodeWire 0x0C 0x00ABCDEF = 0x0ABCDEFC#32 := by
  decide
theorem test_bytesOf : bytesOf 0x23456789#32 = [0x23#8, 0x45#8, 0x67#8, 0x89#8] := by decide

/-! ### ParseAnt: 95_test_vectors.md section 2.7 -/

theorem test_parseAnt :
    parseAnt "Auto" = (true, 0) ∧ parseAnt "Patch" = (true, 1) ∧ parseAnt "External" = (true, 2) ∧
    parseAnt "Banana" = (false, 0) ∧ parseAnt "patch" = (false, 0) ∧ parseAnt "" = (false, 0) ∧
    parseAnt "Patch " = (false, 0) := by decide

/-! ### The assembler: 30_encoding.md R73 -/

theorem test_assemble :
    assembleLine "WR   9, 0x12345678   ; raw" = some (.wr 9 0x12345678) ∧
    assembleLine "WR CONF1, 0x0A291823" = some (.wrName .conf1 0x0A291823) ∧
    assembleLine "ANT  1, External" = some (.ant true 2) ∧
    assembleLine "ANTS \"Patch\"" = some (.ants "Patch") ∧
    assembleLine "BOOT" = some .boot := by decide
theorem test_assemble_refused :
    assembleLine "WR 256, 0" = none ∧ assembleLine "ANT 2, 0" = none ∧
    assembleLine "ANT 1, 4" = none ∧ assembleLine "init" = none ∧
    assembleLine "; nothing" = none := by decide

/-! ### The commands -/

/-- W1: one transaction, no shadow, LASTTX[9]. -/
theorem test_wr :
    let t := left (exec (.wr 0x09 0x12345678) inited)
    t.trace = inited.trace ++ txT1 0x23 0x45 0x67 0x89 ++ [.done .success] ∧ t.sh = inited.sh ∧
      t.phase = .init ∧ t.lastTx.at 9 = some 0x2345678 := by decide
/-- W7: the same in `P_RESET` is refused. -/
theorem test_wr_refused : exec (.wr 0x09 0x12345678) off = .next (refusedWith .phaseWr off) := by rfl

/-- I1: the trace. -/
theorem test_init_trace :
    inited.trace =
      [.gpioCfg .pgm ⟨1⟩, .gpioClr .pgm, .gpioCfg .shdn ⟨2⟩, .gpioSet .shdn, .gpioCfg .idle ⟨3⟩,
       .gpioSet .idle] ++ txT1 0xA2 0x91 0x9A 0x30 ++ txT1 0x05 0x50 0x28 0x81 ++
      txT1 0xEA 0xFF 0x1D 0xC2 ++ txT1 0x9E 0xC0 0x00 0x83 ++ txT1 0x0C 0x00 0x08 0x04 ++
      txT1 0x80 0x00 0x07 0x05 ++ txT1 0x10 0x06 0x1B 0x27 ++ [.done .success] := by decide
/-- I1: the end state. -/
theorem test_init_state :
    inited.sh = ⟨some 0x0A2919A3, some 0x00550288, some 0x0EAFF1DC, some 0x09EC0008,
      some 0x00C00080, some 0x08000070, none, some 0x010061B2, none, none⟩ ∧
    inited.phase = .init ∧ inited.pin = ⟨.low, .high, .high⟩ ∧
    inited.lastTx = #v[some 0xA2919A3, some 0x0550288, some 0xEAFF1DC, some 0x9EC0008,
      some 0x0C00080, some 0x8000070, none, some 0x10061B2, none, none, none, none, none, none,
      none, none] := by decide

/-- H1. -/
theorem test_hook :
    ready.trace = inited.trace ++
      [.regSetting "frontend" "antenna_selection" ["Auto", "Patch", "External"], .done .success] ∧
    ready.phase = .ready ∧ ready.sh = inited.sh := by decide
/-- H2: refused in `P_RESET`. -/
theorem test_hook_refused : exec .hook off = .next (refusedWith .phaseHook off) := by rfl

/-- A1: the happy path. -/
theorem test_ant_patch :
    patched.sh = { ready.sh with conf1 := some 0x0A2959A3 } ∧
    patched.trace = ready.trace ++ txT1 0xA2 0x95 0x9A 0x30 ++ [.notice .patch, .done .success] ∧
    patched.phase = .ready ∧ patched.lastTx.at 0 = some 0xA2959A3 := by decide
/-- A11 and A12: bits 31 to 28 stay, and a mask above bit 27 changes the shadow but not the word. -/
theorem test_ant_high_bits :
    (left (exec (.ant true 2) ready2)).sh.conf1 = some 0xFA2939A3 ∧
    (left (exec (.ant true 1) ready3)).sh.conf1 = some 0x1A2919A3 ∧
    (left (exec (.ant true 1) ready3)).trace =
      ready3.trace ++ txT1 0xA2 0x91 0x9A 0x30 ++ [.notice .patch, .done .success] := by decide

/-- P2, its first ANTS: the host's cell and the mode. -/
theorem test_ants_external :
    (left (exec (.ants "External") ready)).antSel = 2 ∧
    (left (exec (.ants "External") ready)).sh.conf1 = some 0x0A2939A3 := by decide
/-- P2: "Banana" fails and changes neither. -/
theorem test_ants_banana :
    exec (.ants "Banana") patched = .next (afterFailedAnt patched) := by rfl

/-- W5: `WR STRM, 0x08000000`. -/
theorem test_wrName :
    let t := left (exec (.wrName .strm 0x08000000) inited)
    t.trace = inited.trace ++ txT1 0x80 0x00 0x00 0x06 ++ [.done .success] ∧ t.sh.strm = none ∧
      t.lastTx.at 6 = some 0x8000000 := by decide
/-- P3: a raw write to CONF1 leaves the shadow stale. -/
theorem test_wrName_stale :
    (left (exec (.wrName .conf1 0x0A291823) patched)).sh.conf1 = some 0x0A2959A3 ∧
    (left (exec (.wrName .conf1 0x0A291823) patched)).lastTx.at 0 = some 0xA291823 := by decide

/-- R142: BOOT is INIT then HOOK. -/
theorem test_boot : exec .boot off = .next ready := eq_next_left (by decide)

/-! ### One step -/

/-- P4: the all-zero word is refused and the block goes on. -/
theorem test_step_reserved_word :
    step (presented [.word 0]) = .next (refusedWith .rsvdOp ready) := by rfl
/-- A13. -/
theorem test_step_reserved_bits :
    step (presented [.word 0x400000000008#48]) = .next (refusedWith .rsvdBits ready) := by rfl
theorem test_step_fetches_word :
    step (ready.withFetchWord 48 0x400000000005) = .next patched := eq_next_left (by decide)
/-- P5: the reset input keeps the trace. -/
theorem test_step_reset :
    let t := left (step { patched with pending := [.reset] })
    t.sh = Shadows.unwritten ∧ t.phase = .reset ∧ t.pin = Pins.unconfigured ∧
      t.trace = patched.trace := by decide

/-! ### Witnesses: for every statement with hypotheses, states and operands that meet them together -/

theorem inv_off : Inv off where
  resetIffUnwritten := ⟨fun _ r => by cases r <;> decide, fun _ => by decide⟩
  sevenWritten h := absurd rfl h
  shadowsHoldConstants _ h := absurd rfl h
  conf1FreshInInit h := by cases h
  pinsFollowPhase := by decide
  nothingSentInReset _ a := by revert a; decide

theorem inv_inited : Inv inited where
  resetIffUnwritten := ⟨fun h => absurd h (by decide), fun h => absurd (h .conf1) (by decide)⟩
  sevenWritten _ r := by cases r <;> decide
  shadowsHoldConstants _ _ :=
    ⟨fun r _ => by cases r <;> decide, 0x0A2919A3, by decide⟩
  conf1FreshInInit _ := by decide
  pinsFollowPhase := by decide
  nothingSentInReset h := absurd h (by decide)

theorem inv_ready : Inv ready where
  resetIffUnwritten := ⟨fun h => absurd h (by decide), fun h => absurd (h .conf1) (by decide)⟩
  sevenWritten _ r := by cases r <;> decide
  shadowsHoldConstants _ _ :=
    ⟨fun r _ => by cases r <;> decide, 0x0A2919A3, by decide⟩
  conf1FreshInInit h := absurd h (by decide)
  pinsFollowPhase := by decide
  nothingSentInReset h := absurd h (by decide)

theorem inv_patched : Inv patched where
  resetIffUnwritten := ⟨fun h => absurd h (by decide), fun h => absurd (h .conf1) (by decide)⟩
  sevenWritten _ r := by cases r <;> decide
  shadowsHoldConstants _ _ :=
    ⟨fun r hr => by cases r <;> first | decide | exact absurd rfl hr, 0x0A2959A3, by decide⟩
  conf1FreshInInit h := absurd h (by decide)
  pinsFollowPhase := by decide
  nothingSentInReset h := absurd h (by decide)

/-- The command runs of the vectors, as the hypothesis `exec i s = .next t`. -/
theorem runs_wr : exec (.wr 0xF 0) inited = .next (left (exec (.wr 0xF 0) inited)) :=
  eq_next_left (by decide)
theorem runs_wrName :
    exec (.wrName .test2 0) inited = .next (left (exec (.wrName .test2 0) inited)) :=
  eq_next_left (by decide)
theorem runs_init : exec .init off = .next inited := eq_next_left (by decide)
theorem runs_hook : exec .hook inited = .next ready := eq_next_left (by decide)
theorem runs_ant : exec (.ant true 1) ready = .next patched := eq_next_left (by decide)
theorem runs_ants :
    exec (.ants "External") ready = .next (left (exec (.ants "External") ready)) :=
  eq_next_left (by decide)
theorem runs_word :
    step (presented [.word 0x400000000005#48]) = .next patched := eq_next_left (by decide)

/-- DecodeOfEncodeIsTheInstruction, at the largest operands of every constructor that has some. -/
theorem witness_DecodeOfEncode :
    (Instr.wr 255 (2 ^ 32 - 1)).wellFormed = true ∧ (Instr.ant false 3).wellFormed = true ∧
    (Instr.wrName .test2 (2 ^ 32 - 1)).wellFormed = true ∧ (Instr.ants "Banana").wellFormed = true ∧
    Instr.boot.wellFormed = true ∧ Instr.hook.wellFormed = true := by decide
theorem witness_EncodeOfDecode :
    decode 0x10FFFFFFFFFF#48 = .ok (.wr 0xFF 0xFFFFFFFF) ∧
    decode 0x400000000007#48 = .ok (.ant true 3) := by decide
/-- StepRunsTheDecodedCommand, its four clauses. -/
theorem witness_StepRuns :
    ((presented [.word 0x200000000000#48]).pending = .word 0x200000000000#48 :: [] ∧
      decode 0x200000000000#48 = .ok .init) ∧
    (presented [.command (.wr 300 (2 ^ 40))]).pending = .command (.wr 300 (2 ^ 40)) :: [] ∧
    ready.pending = [] ∧
    decodeTableWord 48 0x100000000000 = some (.wr 0 0) := by decide
/-- ChecksComeInOrder: a word for each clause, at the ends of each range. -/
theorem witness_Checks_op :
    (presented [.word 0]).pending = .word 0 :: [] ∧ (0#48).toNat / 2 ^ 44 = 0 ∧
    4 < (0x500000000000#48).toNat / 2 ^ 44 ∧ 4 < (0xFFFFFFFFFFFF#48).toNat / 2 ^ 44 := by decide
theorem witness_Checks_reserved :
    ((0x110000000000#48).toNat / 2 ^ 44 = 1 ∧ (0x110000000000#48).toNat / 2 ^ 40 % 16 ≠ 0) ∧
    ((0x200000000001#48).toNat / 2 ^ 44 = 2 ∧ (0x200000000001#48).toNat % 2 ^ 44 ≠ 0) ∧
    ((0x380000000000#48).toNat / 2 ^ 44 = 3 ∧ (0x380000000000#48).toNat % 2 ^ 44 ≠ 0) ∧
    ((0x400000000008#48).toNat / 2 ^ 44 = 4 ∧ (0x400000000008#48).toNat % 2 ^ 44 / 2 ^ 3 ≠ 0) := by
  decide
theorem witness_Checks_phase :
    (decode 0x400000000000#48 = .ok (.ant false 0) ∧
      refusedAs (.ant false 0) inited.phase = some .phaseAnt) ∧
    (decode 0x100000000000#48 = .ok (.wr 0 0) ∧ refusedAs (.wr 0 0) off.phase = some .phaseWr) ∧
    refusedAs .init ready.phase = some .phaseInit ∧
    refusedAs .hook ready.phase = some .phaseHook := by decide
theorem witness_Checks_ok :
    decode 0x400000000003#48 = .ok (.ant false 3) ∧ (presented []).phase = .ready ∧
    ServicesAccept (presented []) := by decide
/-- ResetInputIsPowerUp and ResetFrame. -/
theorem witness_ResetInput :
    (presented [.reset]).pending = .reset :: [] ∧
    step (presented [.reset]) = .next (left (step (presented [.reset]))) ∧
    (left (step (presented [.reset]))).phase = .reset :=
  ⟨rfl, eq_next_left (by decide), by decide⟩
/-- WR and WR by name: refused in `P_RESET`, run in the two other phases. -/
theorem witness_Wr :
    (inited.phase ≠ .reset ∧ ServicesAccept inited) ∧ (ready.phase ≠ .reset ∧ ServicesAccept ready) ∧
    off.phase = .reset := by decide
theorem witness_Init :
    (off.phase = .reset ∧ ServicesAccept off) ∧ inited.phase ≠ .reset ∧ ready.phase ≠ .reset := by
  decide
theorem witness_InitPostconditions :
    Inv off ∧ off.params.WellFormed ∧ off.phase = .reset ∧ ServicesAccept off ∧
    initConst off.params .clk = some 0x010061B2 ∧ initConst off.params .strm = none ∧
    ∀ r ∈ initOrder, off.params.addr.get r ≠ 6#4 := ⟨inv_off, by decide⟩
theorem witness_Hook :
    (inited.phase = .init ∧ ServicesAccept inited) ∧ off.phase ≠ .init ∧ ready.phase ≠ .init := by
  decide
/-- ANT, ANTS: outside `P_READY`, and inside it with a value in the CONF1 shadow. -/
theorem witness_Ant :
    off.phase ≠ .ready ∧ inited.phase ≠ .ready ∧
    (ready.phase = .ready ∧ ServicesAccept ready ∧ ready.sh.conf1 = some 0x0A2919A3#32) ∧
    t1.lnaMask = 0x00006000#32 ∧ t1.lnaIn1 = 0x00004000#32 := by decide
theorem witness_Ants :
    ("External", 2) ∈ [("Auto", 0), ("Patch", 1), ("External", 2)] ∧
    "Banana" ≠ "Auto" ∧ "Banana" ≠ "Patch" ∧ "Banana" ≠ "External" := by decide
theorem witness_Boot :
    (off.phase = .reset ∧ ServicesAccept off) ∧ (inited.phase = .init ∧ ServicesAccept inited) ∧
    ready.phase = .ready := by decide
theorem witness_StateAfterBoot : t1.WellFormed ∧ ready.sh.get .div = some 0x00C00080#32 := by decide
/-- AdmissionByPhase: refused and admitted. -/
theorem witness_Admission :
    Instr.isCommand .hook = true ∧ Inv inited ∧ ServicesAccept inited ∧
    refusedAs .hook inited.phase = none ∧ refusedAs .init inited.phase = some .phaseInit :=
  ⟨rfl, inv_inited, by decide⟩
theorem witness_Refused :
    Instr.isCommand (.ant true 1) = true ∧
    exec (.ant true 1) inited = .next (refusedWith .phaseAnt inited) ∧
    (refusedWith .phaseAnt inited).outcomes = inited.outcomes ++ [.refused .phaseAnt] :=
  ⟨rfl, rfl, rfl⟩
theorem witness_Refused_word :
    ((presented [.word 0]).pending = .word 0 :: [] ∧ decode 0 = .error .rsvdOp) ∧
    decode 0xF00000000000#48 = .error .rsvdOp ∧ decode 0x10F000000000#48 ≠ .error .rsvdBits ∧
    decode 0x1F0000000000#48 = .error .rsvdBits ∧ decode 0x4FFFFFFFFFFF#48 = .error .rsvdBits := by
  decide
theorem witness_OneOutcome : (Instr.hook ≠ .boot) ∧ exec .hook inited = .next ready :=
  ⟨by decide, runs_hook⟩
theorem witness_Record :
    doneStatuses (presented [.word 0x400000000005#48]).trace =
      completedStatuses (presented [.word 0x400000000005#48]).outcomes ∧
    step (presented [.word 0x400000000005#48]) = .next patched := ⟨by decide, runs_word⟩
/-- StuckAtFirstEventNotAccepted: HOOK emits two events; budgets 0, 1 and 2. -/
theorem witness_Stuck :
    exec .hook { inited with stallAfter := none } = .next ready ∧
    ready.trace = inited.trace ++ [reg, .done .success] ∧
    0 < [reg, Event.done .success].length ∧ 1 < [reg, Event.done .success].length ∧
    [reg, Event.done .success].length ≤ 2 := ⟨runs_hook, by decide⟩
theorem test_stuck :
    exec .hook { inited with stallAfter := some 1 } = .fault (.stuck (.done .success)) ∧
    exec .hook { inited with stallAfter := some 0 } = .fault (.stuck reg) := ⟨by rfl, by rfl⟩
theorem witness_GoesOn : Inv ready ∧ ServicesAccept ready := ⟨inv_ready, rfl⟩
/-- WriteFrame, both forms; an address the write does not reach. -/
theorem witness_WriteFrame :
    exec (.wr 0xF 0) inited = .next (left (exec (.wr 0xF 0) inited)) ∧ 0xF#4 = BitVec.ofNat 4 0xF ∧
    exec (.wrName .test2 0) inited = .next (left (exec (.wrName .test2 0) inited)) ∧
    9#4 = inited.params.addr.get .test2 ∧ 0#4 ≠ 0xF#4 := ⟨runs_wr, rfl, runs_wrName, rfl, by decide⟩
theorem witness_StartupFrame :
    exec .init off = .next inited ∧ exec .boot off = .next ready ∧
    ∀ r ∈ initOrder, off.params.addr.get r ≠ 15#4 := ⟨runs_init, test_boot, by decide⟩
theorem witness_HookFrame : exec .hook inited = .next ready := runs_hook
theorem witness_AntennaFrame :
    exec (.ant true 1) ready = .next patched ∧ ready.antSel = 0 ∧
    exec (.ants "External") ready = .next (left (exec (.ants "External") ready)) ∧
    (if (parseAnt "External").1 = true then (parseAnt "External").2 else ready.antSel) = 2 ∧
    1#4 ≠ ready.params.addr.conf1 := ⟨runs_ant, by decide, runs_ants, by decide, by decide⟩
theorem inv_presented (inputs : List HostInput) : Inv (presented inputs) :=
  ⟨inv_ready.1, inv_ready.2, inv_ready.3, inv_ready.4, inv_ready.5, inv_ready.6⟩
theorem witness_StepKeepsInv :
    Inv (presented [.word 0x400000000005#48]) ∧
    step (presented [.word 0x400000000005#48]) = .next patched := ⟨inv_presented _, runs_word⟩
theorem witness_BusFramed :
    framed (presented [.word 0x400000000005#48]).trace = true ∧
    step (presented [.word 0x400000000005#48]) = .next patched := ⟨by decide, runs_word⟩
/-- `framed` sees a transaction left open and a fifth byte. -/
theorem test_framed :
    framed [.sel ⟨7⟩, .xfer ⟨9⟩ 0, .xfer ⟨9⟩ 0, .xfer ⟨9⟩ 0, .xfer ⟨9⟩ 0] = false ∧
    framed [.sel ⟨7⟩, .xfer ⟨9⟩ 0, .xfer ⟨9⟩ 0, .xfer ⟨9⟩ 0, .xfer ⟨9⟩ 0, .xfer ⟨9⟩ 0, .desel] =
      false := by decide
theorem witness_TraceIsAppendOnly :
    step (presented [.word 0x400000000005#48]) = .next patched ∧
    (presented [.reset]).pending = .reset :: [] ∧
    step (presented [.reset]) = .next (left (step (presented [.reset]))) :=
  ⟨runs_word, rfl, eq_next_left (by decide)⟩
/-- ShadowWritersAndReaders: a shadow INIT changes, and the one ANT changes. -/
theorem witness_ShadowWriters :
    (exec .init off = .next inited ∧ inited.sh.get .clk ≠ off.sh.get .clk) ∧
    (exec (.ant true 1) ready = .next patched ∧ patched.sh.get .conf1 ≠ ready.sh.get .conf1) ∧
    Inv ready := ⟨⟨runs_init, by decide⟩, ⟨runs_ant, by decide⟩, inv_ready⟩
theorem witness_OnlyInitMoves : exec .init off = .next inited ∧ inited.pin ≠ off.pin :=
  ⟨runs_init, by decide⟩
theorem witness_OnlyTheLnaField :
    ready.params.WellFormed ∧ ready.phase ≠ .reset ∧ exec (.ant true 1) ready = .next patched :=
  ⟨by decide, by decide, runs_ant⟩
/-- ShadowStaysConsistent: a raw write to the next address is none to CONF1's. -/
theorem witness_ShadowStaysConsistent :
    inited.params.W1 ∧ Consistent .conf1 inited ∧ ¬ writesRaw inited.params.addr .conf1 (.wr 0xF 0) ∧
    exec (.wr 0xF 0) inited = .next (left (exec (.wr 0xF 0) inited)) := by
  refine ⟨by decide, fun v hv => ?_, by unfold writesRaw; decide, runs_wr⟩
  obtain rfl : 0x0A2919A3#32 = v := Option.some.inj hv
  decide
/-- ModeStateMachine, its three clauses. -/
theorem witness_ModeStateMachine :
    (Inv ready ∧ ready.params.WellFormed ∧ ServicesAccept ready ∧ ready.phase = .ready ∧
      ready.sh.conf1 = some 0x0A2919A3#32) ∧
    (Inv off ∧ off.phase = .reset) ∧
    (Inv inited ∧ inited.params.WellFormed ∧ inited.phase = .init ∧ exec .hook inited = .next ready) :=
  ⟨⟨inv_ready, by decide⟩, ⟨inv_off, rfl⟩, inv_inited, by decide, by decide, runs_hook⟩
/-- LastSuccessfulAntWins, from a mode that is not INIT's. -/
theorem witness_LastSuccessfulAntWins :
    Inv patched ∧ patched.params.WellFormed ∧ ServicesAccept patched ∧ patched.phase = .ready ∧
    patched.sh.conf1 = some 0x0A2959A3#32 := ⟨inv_patched, by decide⟩
theorem witness_Repeated :
    ServicesAccept ready ∧ ready.phase = .ready ∧ ready.sh.conf1 = some 0x0A2919A3#32 := by decide
theorem witness_RoundTrip : off.params.WellFormed ∧ off.phase = .reset ∧ ServicesAccept off := by
  decide
/-- AntSeesOnlyBitsOutsideTheMask: two states whose CONF1 shadows differ inside the mask alone. -/
theorem witness_AntSees :
    ready.params = patched.params ∧ ready.sh.conf1 = some 0x0A2919A3#32 ∧
    patched.sh.conf1 = some 0x0A2959A3#32 ∧
    0x0A2919A3#32 &&& ~~~ready.params.lnaMask = 0x0A2959A3#32 &&& ~~~ready.params.lnaMask ∧
    ready.phase = patched.phase ∧ ready.phase = .ready ∧
    exec (.ant true 1) ready = .next patched ∧
    exec (.ant true 1) patched = .next (left (exec (.ant true 1) patched)) :=
  ⟨by decide, by decide, by decide, by decide, by decide, by decide, runs_ant,
    eq_next_left (by decide)⟩
theorem witness_AntUndoes :
    ServicesAccept patched ∧ patched.phase = .ready ∧ patched.sh.conf1 = some 0x0A2959A3#32 := by
  decide
theorem witness_Ghost : exec (.ant true 1) ready = .next patched := runs_ant
theorem witness_Notice :
    ServicesAccept ready ∧
    exec (.ant true 1) { ready with params := { ready.params with modelNotice := true } } =
      .next patched ∧
    patched.trace = ready.trace ++
      (txT1 0xA2 0x95 0x9A 0x30 ++ [.notice .patch, .done .success]) :=
  ⟨by decide, runs_ant, by decide⟩

end Sys2Proof.Tests
end

section
/-! The fields of the command word as numbers (30_encoding.md section 2, R64), and the decoder of R67
read off them. -/

namespace Sys2Proof

@[simp] theorem opField_toNat (cw : CommandWord) : (opField cw).toNat = cw.toNat / 2 ^ 44 := by
  have hfits : cw.toNat / 2 ^ 44 < 2 ^ 4 := Nat.div_lt_of_lt_mul cw.isLt
  rw [opField, BitVec.extractLsb'_toNat, Nat.shiftRight_eq_div_pow, Nat.mod_eq_of_lt hfits]

@[simp] theorem reservedW_toNat (cw : CommandWord) :
    (reservedW cw).toNat = cw.toNat / 2 ^ 40 % 16 := by
  rw [reservedW, BitVec.extractLsb'_toNat, Nat.shiftRight_eq_div_pow]

@[simp] theorem reservedN_toNat (cw : CommandWord) : (reservedN cw).toNat = cw.toNat % 2 ^ 44 := by
  rw [reservedN, BitVec.extractLsb'_toNat, Nat.shiftRight_zero]

@[simp] theorem reservedA_toNat (cw : CommandWord) :
    (reservedA cw).toNat = cw.toNat % 2 ^ 44 / 2 ^ 3 := by
  rw [reservedA, BitVec.extractLsb'_toNat, Nat.shiftRight_eq_div_pow]
  exact (Nat.mod_mul_right_div_self cw.toNat (2 ^ 3) (2 ^ 41)).symm

theorem readW_eq_wr (cw : CommandWord) :
    readW cw = .wr (cw.toNat / 2 ^ 32 % 256) (cw.toNat % 2 ^ 32) := by
  simp only [readW, BitVec.extractLsb'_toNat, Nat.shiftRight_eq_div_pow, Nat.pow_zero, Nat.div_one]

theorem readA_eq_ant (cw : CommandWord) :
    readA cw = .ant (decide (cw.toNat / 2 ^ 2 % 2 = 1)) (cw.toNat % 2 ^ 2) := by
  simp only [readA, BitVec.extractLsb'_toNat, Nat.shiftRight_zero, BitVec.getLsbD,
    Nat.testBit_eq_decide_div_mod_eq]

/-- Settles O7: each test of `decode` compares a field, and a field is compared by its number. -/
theorem decodeByFields : Obligations.DecodeByFields := by
  refine ⟨fun cw => ?_, rfl⟩
  simp only [decode, readW_eq_wr, readA_eq_ant, ne_eq, ← BitVec.toNat_inj, opField_toNat,
    reservedW_toNat, reservedN_toNat, reservedA_toNat, BitVec.ofNat_eq_ofNat,
    BitVec.toNat_ofNat, Nat.reducePow, Nat.reduceMod]

end Sys2Proof
end

section
/-! The codec (40_codec.md): the wire word and its four bytes as numbers (R60, R80, R81), and WR on top
of them (R84). -/

namespace Sys2Proof.Machine

open Sys2Proof.Safety

/-! ### `Encode` (R60, R80) -/

/-- The formula of R80 in arithmetic: the mask keeps 28 bits of the payload, and the shift leaves the
low four bits free for the address. -/
theorem encodeFormula_eq_wireNumber (a p : Nat) :
    ((p <<< 4) &&& 0xFFFFFFF0) ||| (a &&& 0x0F) = wireNumber a p := by
  have haddr : a &&& 0x0F = a % 16 := Nat.and_two_pow_sub_one_eq_mod a 4
  have hmask : 0xFFFFFFF0 = (2 ^ 28 - 1) <<< 4 := rfl
  have hpay : (p <<< 4) &&& 0xFFFFFFF0 = (p % 2 ^ 28) <<< 4 := by
    rw [hmask, ← Nat.shiftLeft_and_distrib, Nat.and_two_pow_sub_one_eq_mod]
  have hlt : a % 16 < 2 ^ 4 := Nat.mod_lt a (by decide)
  rw [haddr, hpay, ← Nat.shiftLeft_add_eq_or_of_lt hlt, Nat.shiftLeft_eq, wireNumber]

theorem wireNumber_lt (a p : Nat) : wireNumber a p < 2 ^ 32 := by
  unfold wireNumber; omega

@[simp] theorem encodeWire_toNat (a p : Nat) : (encodeWire a p).toNat = wireNumber a p := by
  rw [encodeWire, encodeFormula_eq_wireNumber, BitVec.toNat_ofNat, Nat.mod_eq_of_lt (wireNumber_lt a p)]

@[simp] theorem wirePayload_toNat (w : Word32) : (wirePayload w).toNat = w.toNat / 2 ^ 4 := by
  have hfits : w.toNat / 2 ^ 4 < 2 ^ 28 := Nat.div_lt_of_lt_mul w.isLt
  rw [wirePayload, BitVec.extractLsb'_toNat, Nat.shiftRight_eq_div_pow, Nat.mod_eq_of_lt hfits]

@[simp] theorem wireAddress_toNat (w : Word32) : (wireAddress w).toNat = w.toNat % 2 ^ 4 := by
  rw [wireAddress, BitVec.extractLsb'_toNat, Nat.shiftRight_zero]

@[simp] theorem wirePayload_encodeWire (a p : Nat) :
    wirePayload (encodeWire a p) = BitVec.ofNat 28 p := by
  apply BitVec.eq_of_toNat_eq
  rw [wirePayload_toNat, encodeWire_toNat, BitVec.toNat_ofNat, wireNumber]
  omega

@[simp] theorem wireAddress_encodeWire (a p : Nat) :
    wireAddress (encodeWire a p) = BitVec.ofNat 4 a := by
  apply BitVec.eq_of_toNat_eq
  rw [wireAddress_toNat, encodeWire_toNat, BitVec.toNat_ofNat, wireNumber]
  omega

/-- R60: bits 28 and up of the payload operand play no part. -/
theorem encodeWire_add_two_pow (a p : Nat) : encodeWire a (p + 2 ^ 28) = encodeWire a p := by
  apply BitVec.eq_of_toNat_eq
  rw [encodeWire_toNat, encodeWire_toNat, wireNumber, wireNumber, Nat.add_mod_right]

/-- Settles O1: the formula's two masks are remainders, and the fields are read off the number. -/
theorem encodeByFormulaFieldsAndArithmetic : Obligations.EncodeByFormulaFieldsAndArithmetic := by
  refine ⟨fun a p => ⟨?_, encodeWire_toNat a p, wirePayload_encodeWire a p,
    wireAddress_encodeWire a p, encodeWire_add_two_pow a p⟩, ?_⟩
  · rw [encodeWire_toNat, encodeFormula_eq_wireNumber]
  · decide

/-! ### `Bytes` (R61, R81) -/

theorem map_toNat_injective : Function.Injective (List.map (BitVec.toNat (w := 8))) :=
  List.map_injective_iff.2 fun _ _ => BitVec.eq_of_toNat_eq

/-- The four bytes of a wire word as the base-256 digits of its number, most significant first. -/
theorem bytesOf_map_toNat (w : Word32) : (bytesOf w).map BitVec.toNat =
    [w.toNat / 2 ^ 24 % 256, w.toNat / 2 ^ 16 % 256, w.toNat / 2 ^ 8 % 256, w.toNat % 256] := by
  simp only [bytesOf, List.map_cons, List.map_nil, BitVec.extractLsb'_toNat,
    Nat.shiftRight_eq_div_pow, Nat.pow_zero, Nat.div_one, Nat.reducePow]

theorem bytesOf_eq_ofNat (w : Word32) : bytesOf w =
    [BitVec.ofNat 8 (w.toNat / 2 ^ 24), BitVec.ofNat 8 (w.toNat / 2 ^ 16),
      BitVec.ofNat 8 (w.toNat / 2 ^ 8), BitVec.ofNat 8 w.toNat] := by
  apply map_toNat_injective
  rw [bytesOf_map_toNat]
  rfl

/-- A word is the one number whose base-256 digits are its four bytes. -/
theorem bytesOf_eq_iff (w : Word32) (b0 b1 b2 b3 : Byte) : bytesOf w = [b0, b1, b2, b3] ↔
    w.toNat = b0.toNat * 2 ^ 24 + b1.toNat * 2 ^ 16 + b2.toNat * 2 ^ 8 + b3.toNat := by
  rw [← map_toNat_injective.eq_iff, bytesOf_map_toNat]
  simp only [List.map_cons, List.map_nil, List.cons.injEq, and_true]
  omega

theorem bytesOf_surjective (b0 b1 b2 b3 : Byte) : ∃ w, bytesOf w = [b0, b1, b2, b3] := by
  refine ⟨BitVec.ofNat 32 (b0.toNat * 2 ^ 24 + b1.toNat * 2 ^ 16 + b2.toNat * 2 ^ 8 + b3.toNat), ?_⟩
  rw [bytesOf_eq_iff, BitVec.toNat_ofNat, Nat.mod_eq_of_lt]
  omega

/-- A field of the payload stands four bits higher in the wire word (R60). -/
theorem extractLsb'_wirePayload (w : Word32) {i n : Nat} (hfits : i + n ≤ 28) :
    (wirePayload w).extractLsb' i n = w.extractLsb' (4 + i) n := by
  ext k hk
  have hin : i + k < 28 := by omega
  simp only [wirePayload, BitVec.getElem_extractLsb', BitVec.getLsbD_extractLsb', hin, decide_true,
    Bool.true_and, Nat.add_assoc]

/-- R61: the last byte holds the payload's low four bits above the address. -/
theorem bytesOf_eq_fields (w : Word32) : bytesOf w =
    [(wirePayload w).extractLsb' 20 8, (wirePayload w).extractLsb' 12 8,
      (wirePayload w).extractLsb' 4 8, (wirePayload w).extractLsb' 0 4 ++ wireAddress w] := by
  have hlast : (wirePayload w).extractLsb' 0 4 ++ wireAddress w = w.extractLsb' 0 8 := by
    rw [extractLsb'_wirePayload w (by decide), wireAddress]
    exact BitVec.extractLsb'_append_extractLsb'_eq_extractLsb' rfl
  rw [hlast, extractLsb'_wirePayload w (by decide), extractLsb'_wirePayload w (by decide),
    extractLsb'_wirePayload w (by decide), bytesOf]

/-- Settles O2: the bytes are the base-256 digits of the word's number. -/
theorem bytesSplitsMostSignificantFirst : Obligations.BytesSplitsMostSignificantFirst := by
  refine ⟨fun w => ?_, bytesOf_eq_iff, bytesOf_surjective, bytesOf_eq_fields, by decide, by decide⟩
  rw [bytesOf_map_toNat]
  have hbyte : ∀ n : Nat, n &&& 0xFF = n % 256 := fun n => Nat.and_two_pow_sub_one_eq_mod n 8
  rw [hbyte, hbyte, hbyte, hbyte, Nat.shiftRight_eq_div_pow, Nat.shiftRight_eq_div_pow,
    Nat.shiftRight_eq_div_pow]

/-! ### WR (R84) -/

/-- The six events of a transaction are those of its word's number (R81, R83). -/
theorem transaction_eq_tx (p : Params) (w : Word32) : transaction p w = tx p w.toNat := by
  rw [transaction, bytesOf_eq_ofNat]
  rfl

theorem exec_wr (a p : Nat) (s : State) : exec (.wr a p) s = encodeAndTransmit a p s := rfl

theorem admitsWr_iff (ph : Phase) : admitsWr ph = true ↔ ph ≠ .reset := by
  cases ph <;> decide

theorem encodeAndTransmit_admitted {a p : Nat} {s : State} (hphase : s.phase ≠ .reset)
    (hacc : ServicesAccept s) : encodeAndTransmit a p s = .next (afterWr a p s) := by
  rw [encodeAndTransmit, if_pos ((admitsWr_iff _).2 hphase), memWrite_accepted a p hacc,
    andThen_next, complete_accepted _ (by exact hacc), transaction_eq_tx, encodeWire_toNat,
    wireAddress_encodeWire, wirePayload_encodeWire]
  rfl

theorem encodeAndTransmit_refused {a p : Nat} {s : State} (hphase : s.phase = .reset) :
    encodeAndTransmit a p s = .next (refusedWith .phaseWr s) := by
  rw [encodeAndTransmit, if_neg fun h => (admitsWr_iff _).1 h hphase, refuse_eq]

/-- Settles O16: outside `P_RESET` one transaction with the encoded word, and in it a refusal. -/
theorem wrSendsOneWord : Obligations.WrSendsOneWord := by
  refine ⟨fun a p s hphase hacc => ?_, fun a p s hphase => ?_, by decide, fun _ => rfl⟩
  · rw [exec_wr, encodeAndTransmit_admitted hphase hacc]
  · rw [exec_wr, encodeAndTransmit_refused hphase]

end Sys2Proof.Machine
end

section
/-! The startup commands (41_config_manager.md): INIT as a fold over its register table (R90, R92), what
it leaves (R93), and HOOK (R95). -/

namespace Sys2Proof.Machine

open Sys2Proof.Safety

/-! ### INIT's loop over the registers (R90, R92) -/

/-- The shadows after each entry of `l` is stored, in order (R51). -/
def Shadows.setAll (sh : Shadows) (l : List (RegName × Word32)) : Shadows :=
  l.foldl (fun sh e => sh.set e.1 e.2) sh

/-- `LASTTX` after each entry of `l` is sent, in order (R25). -/
def LastTx.putAll (t : LastTx) (addr : AddrMap) (l : List (RegName × Word32)) : LastTx :=
  l.foldl (fun t e => t.put (addr.get e.1) (e.2.setWidth 28)) t

/-- The bus events of sending each entry of `l`, in order (R83). -/
def txAll (p : Params) (l : List (RegName × Word32)) : List Event :=
  l.flatMap fun e => tx p (wireNumber (p.addr.get e.1).toNat e.2.toNat)

/-- `s` after each entry of `l` is stored and sent, in order (R90). -/
def storedAndSent (l : List (RegName × Word32)) (s : State) : State :=
  { s with
    sh := s.sh.setAll l
    lastTx := s.lastTx.putAll s.params.addr l
    trace := s.trace ++ txAll s.params l }

theorem storeAndSend_accepted (r : RegName) (v : Word32) {s : State} (hacc : ServicesAccept s) :
    storeAndSend r v s = .next (storedAndSent [(r, v)] s) := by
  have hsent : ServicesAccept (writeShadow r v s) := hacc
  rw [storeAndSend_eq, memWrite_accepted _ _ hsent, transaction_eq_tx, encodeWire_toNat,
    wireAddress_encodeWire, wirePayload_encodeWire]
  simp [storedAndSent, Shadows.setAll, LastTx.putAll, txAll, writeShadow]

theorem storedAndSent_cons (e : RegName × Word32) (l : List (RegName × Word32)) (s : State) :
    storedAndSent (e :: l) s = storedAndSent l (storedAndSent [e] s) := by
  simp [storedAndSent, Shadows.setAll, LastTx.putAll, txAll]

theorem storeAndSendAll_accepted (l : List (RegName × Word32)) {s : State} (hacc : ServicesAccept s) :
    storeAndSendAll l s = .next (storedAndSent l s) := by
  induction l generalizing s with
  | nil => simp [storeAndSendAll, storedAndSent, Shadows.setAll, LastTx.putAll, txAll]
  | cons e l ih =>
    rw [storeAndSendAll, storeAndSend_accepted e.1 e.2 hacc, andThen_next, ih (by exact hacc),
      storedAndSent_cons e l]

/-! ### INIT (R90) -/

theorem exec_init (s : State) : exec .init s = fullInitialize s := rfl

theorem admitsInit_iff (ph : Phase) : admitsInit ph = true ↔ ph = .reset := by
  cases ph <;> decide

/-- The 42 bus events of INIT are those of its table (R92, R97). -/
theorem txAll_initTable (p : Params) : txAll p (initTable p) = initTransactions p := rfl

theorem fullInitialize_admitted {s : State} (hphase : s.phase = .reset) (hacc : ServicesAccept s) :
    fullInitialize s = .next (afterInit s) := by
  rw [fullInitialize, if_pos ((admitsInit_iff _).2 hphase), driveControlLines_accepted hacc,
    andThen_next, storeAndSendAll_accepted _ (by exact hacc), andThen_next,
    complete_accepted _ (by exact hacc)]
  have htrace : s.trace ++ gpio6 s.params ++ txAll s.params (initTable s.params) ++ [.done .success] =
      s.trace ++ initTrace s.params := by
    simp [txAll_initTable, initTrace]
  rw [afterInit, ← htrace]
  rfl

theorem fullInitialize_refused {s : State} (hphase : s.phase ≠ .reset) :
    fullInitialize s = .next (refusedWith .phaseInit s) := by
  rw [fullInitialize, if_neg fun h => hphase ((admitsInit_iff _).1 h), refuse_eq]

/-- Settles O18: in `P_RESET` the lines are driven and the table of seven registers is stored and sent,
elsewhere a refusal. -/
theorem initSetsUpTheDevice : Obligations.InitSetsUpTheDevice := by
  refine ⟨fun s hphase hacc => ?_, fun s hphase => ?_, fun _ => rfl, by decide, fun _ => rfl⟩
  · rw [exec_init, fullInitialize_admitted hphase hacc]
  · rw [exec_init, fullInitialize_refused hphase]

/-! ### What INIT leaves (R93) -/

theorem mem_initTable_iff (p : Params) (r : RegName) (v : Word32) :
    (r, v) ∈ initTable p ↔ initConst p r = some v := by
  cases r <;> simp [initTable, initConst, eq_comm]

theorem initTable_map_fst (p : Params) : (initTable p).map Prod.fst = initOrder := rfl

/-- R7 (W1): INIT's registers have pairwise distinct addresses. -/
theorem initTable_addresses_nodup {p : Params} (hw1 : p.W1) :
    (((initTable p).map Prod.fst).map p.addr.get).Nodup := by
  have hsub : initOrder.Sublist RegName.all := by decide
  rw [initTable_map_fst]
  exact hw1.sublist (hsub.map p.addr.get)

theorem LastTx.at_putAll_of_ne (t : LastTx) {addr : AddrMap} {l : List (RegName × Word32)} {a : Address}
    (hne : ∀ r ∈ l.map Prod.fst, addr.get r ≠ a) : (t.putAll addr l).at a = t.at a := by
  induction l generalizing t with
  | nil => rfl
  | cons e l ih =>
    obtain ⟨hhead, htail⟩ := List.forall_mem_cons.1 hne
    calc (t.putAll addr (e :: l)).at a
        = (t.put (addr.get e.1) (e.2.setWidth 28)).at a := ih _ htail
      _ = t.at a := LastTx.at_put_ne t _ hhead

/-- No later entry overwrites what an entry sent when the addresses are pairwise distinct. -/
theorem LastTx.at_putAll_of_mem (t : LastTx) {addr : AddrMap} {l : List (RegName × Word32)}
    (hnodup : ((l.map Prod.fst).map addr.get).Nodup) {r : RegName} {v : Word32} (hmem : (r, v) ∈ l) :
    (t.putAll addr l).at (addr.get r) = some (v.setWidth 28) := by
  induction l generalizing t with
  | nil => cases hmem
  | cons e l ih =>
    obtain ⟨hhead, htail⟩ := List.nodup_cons.1 hnodup
    rcases List.mem_cons.1 hmem with rfl | hrest
    · have hne : ∀ r' ∈ l.map Prod.fst, addr.get r' ≠ addr.get r := fun r' hr' heq =>
        hhead (heq ▸ List.mem_map_of_mem hr')
      calc (t.putAll addr ((r, v) :: l)).at (addr.get r)
          = (t.put (addr.get r) (v.setWidth 28)).at (addr.get r) := LastTx.at_putAll_of_ne _ hne
        _ = some (v.setWidth 28) := LastTx.at_put_self t _ _
    · exact ih _ htail hrest

theorem afterInit_lastTx (s : State) :
    (afterInit s).lastTx = s.lastTx.putAll s.params.addr (initTable s.params) := rfl

theorem afterInit_sh_get (s : State) (r : RegName) :
    (afterInit s).sh.get r = (initConst s.params r).or (s.sh.get r) := by
  cases r <;> rfl

/-- Settles O19: the state INIT leaves holds its table in the shadows and, the addresses being distinct,
in `LASTTX`; the rest is as the invariant has it in `P_RESET`. -/
theorem initPostconditions : Obligations.InitPostconditions := by
  intro s hinv hwf hphase hacc
  obtain ⟨hw1, -, -, hw4, -⟩ := hwf
  have hunwritten : ∀ r, s.sh.get r = none := hinv.resetIffUnwritten.1 hphase
  refine ⟨afterInit s, fullInitialize_admitted hphase hacc, rfl, fun r v hr => ?_, fun r v hr => ?_,
    fun r hr => ?_, fun a hne => ?_, rfl, rfl, rfl, hw4⟩
  · rw [afterInit_sh_get, hr, Option.some_or]
  · rw [afterInit_lastTx, BitVec.ofNat_toNat]
    exact LastTx.at_putAll_of_mem _ (initTable_addresses_nodup hw1) ((mem_initTable_iff _ _ _).2 hr)
  · rw [afterInit_sh_get, hr, Option.none_or, hunwritten]
  · rw [← initTable_map_fst s.params] at hne
    rw [afterInit_lastTx, LastTx.at_putAll_of_ne _ hne, hinv.nothingSentInReset hphase]

/-! ### HOOK (R95) -/

theorem exec_hook (s : State) : exec .hook s = registerChangeHooks s := rfl

/-- R96: the names of the registration event, written out. -/
theorem registration_eq_reg : registration = reg := rfl

theorem admitsHook_iff (ph : Phase) : admitsHook ph = true ↔ ph = .init := by
  cases ph <;> decide

theorem registerChangeHooks_admitted {s : State} (hphase : s.phase = .init) (hacc : ServicesAccept s) :
    registerChangeHooks s = .next (afterHook s) := by
  rw [registerChangeHooks, if_pos ((admitsHook_iff _).2 hphase), emit_accepted _ hacc, andThen_next,
    complete_accepted _ (by exact hacc)]
  simp [registration_eq_reg, afterHook, setPhase]

theorem registerChangeHooks_refused {s : State} (hphase : s.phase ≠ .init) :
    registerChangeHooks s = .next (refusedWith .phaseHook s) := by
  rw [registerChangeHooks, if_neg fun h => hphase ((admitsHook_iff _).1 h), refuse_eq]

/-- Settles O20: in `P_INIT` the registration event, the phase and `DONE(1)`, elsewhere a refusal. -/
theorem hookRegistersTheSetting : Obligations.HookRegistersTheSetting := by
  refine ⟨fun s hphase hacc => ?_, fun s hphase => ?_, by decide⟩
  · rw [exec_hook, registerChangeHooks_admitted hphase hacc]
  · rw [exec_hook, registerChangeHooks_refused hphase]

end Sys2Proof.Machine
end

section
/-! The antenna-mode change (42_antenna.md): ANT as the handler's read-modify-write of CONF1 (R100 to
R102), and the state machine of the LNA-mode field (R103). -/

namespace Sys2Proof.Machine

open Sys2Proof.Safety

/-! ### The read-modify-write (R101, R102) -/

theorem newConf1_eq_replaceField (p : Params) (old : Word32) (sel : Nat) :
    newConf1 p old sel = replaceField p.lnaMask old (modePattern p sel) := rfl

theorem getElem_eq_false_of_and_not {mask pattern : Word32} (hin : pattern &&& ~~~mask = 0#32) {i : Nat}
    (hi : i < 32) (hmask : mask[i] = false) : pattern[i] = false := by
  have hbit : (pattern &&& ~~~mask)[i] = (0#32)[i] := congrArg (·[i]) hin
  simpa [hmask] using hbit

/-- A pattern inside the mask is what the field holds afterwards. -/
theorem replaceField_and_mask {mask old pattern : Word32} (hin : pattern &&& ~~~mask = 0#32) :
    replaceField mask old pattern &&& mask = pattern := by
  ext i hi
  cases hmask : mask[i] with
  | false => simp [replaceField, hmask, getElem_eq_false_of_and_not hin hi hmask]
  | true => simp [replaceField, hmask]

/-- A pattern inside the mask leaves the bits outside it as they were. -/
theorem replaceField_and_not_mask {mask old pattern : Word32} (hin : pattern &&& ~~~mask = 0#32) :
    replaceField mask old pattern &&& ~~~mask = old &&& ~~~mask := by
  ext i hi
  cases hmask : mask[i] with
  | false => simp [replaceField, hmask, getElem_eq_false_of_and_not hin hi hmask]
  | true => simp [replaceField, hmask]

/-- R7 (W2): the pattern of every selection lies inside the mask. -/
theorem modePattern_and_not_mask {p : Params} (hw2 : p.W2) (sel : Nat) :
    modePattern p sel &&& ~~~p.lnaMask = 0#32 := by
  obtain ⟨hgated, hin1, hin2⟩ := hw2
  unfold modePattern
  split_ifs
  · exact hin1
  · exact hin2
  · exact hgated

/-! ### The handler (R100) -/

theorem exec_ant (ok : Bool) (sel : Nat) (s : State) :
    exec (.ant ok sel) s = changeAntennaMode ok sel s := rfl

theorem admitsAnt_iff (ph : Phase) : admitsAnt ph = true ↔ ph = .ready := by
  cases ph <;> decide

theorem changeAntennaMode_refused (ok : Bool) (sel : Nat) {s : State} (hphase : s.phase ≠ .ready) :
    changeAntennaMode ok sel s = .next (refusedWith .phaseAnt s) := by
  rw [changeAntennaMode, if_neg fun h => hphase ((admitsAnt_iff _).1 h), refuse_eq]

theorem changeAntennaMode_failed (sel : Nat) {s : State} (hphase : s.phase = .ready)
    (hacc : ServicesAccept s) : changeAntennaMode false sel s = .next (afterFailedAnt s) := by
  rw [changeAntennaMode, if_pos ((admitsAnt_iff _).2 hphase), if_neg Bool.false_ne_true,
    complete_accepted _ hacc]
  rfl

/-- R76: a failed parse leaves the selection unread, whatever the phase and the services do. -/
theorem changeAntennaMode_false_congr (sel sel' : Nat) (s : State) :
    changeAntennaMode false sel s = changeAntennaMode false sel' s := rfl

theorem changeAntennaMode_succeeded (sel : Nat) {old : Word32} {s : State} (hphase : s.phase = .ready)
    (hacc : ServicesAccept s) (hold : s.sh.conf1 = some old) :
    changeAntennaMode true sel s = .next (afterAnt sel old s) := by
  rw [changeAntennaMode, if_pos ((admitsAnt_iff _).2 hphase), if_pos rfl, replaceLnaMode_some sel hold,
    andThen_next, ← newConf1_eq_replaceField, sendShadow_held (Shadows.get_set_self s.sh .conf1 _),
    memWrite_accepted _ _ (by exact hacc), andThen_next, emitNotice_accepted _ (by exact hacc),
    andThen_next, complete_accepted _ (by exact hacc), transaction_eq_tx, encodeWire_toNat,
    wireAddress_encodeWire, wirePayload_encodeWire, BitVec.ofNat_toNat, BitVec.ofNat_toNat,
    BitVec.setWidth_eq]
  rfl

/-- Settles O21: `P_READY` admits the handler; a failed parse completes it at once, and a successful one
goes through the read-modify-write, the transaction and the notice. -/
theorem antChangesTheMode : Obligations.AntChangesTheMode := by
  refine ⟨fun ok sel s hphase => ?_, fun sel s hphase hacc => ?_, fun sel old s hphase hacc hold => ?_,
    fun sel sel' s => ?_, by decide, fun p hmask hin1 => ⟨?_, rfl⟩⟩
  · rw [exec_ant, changeAntennaMode_refused ok sel hphase]
  · rw [exec_ant, changeAntennaMode_failed sel hphase hacc]
  · rw [exec_ant, changeAntennaMode_succeeded sel hphase hacc hold]
  · rw [exec_ant, exec_ant, changeAntennaMode_false_congr sel sel']
  · rw [newConf1, patternOf, if_pos rfl, hmask, hin1]
    decide

/-! ### What happens to the shadows outside `P_READY` (R22) -/

theorem exec_ants (candidate : String) (s : State) : exec (.ants candidate) s =
    changeAntennaMode (parseAnt candidate).1 (parseAnt candidate).2
      (if (parseAnt candidate).1 then storeAntSel (parseAnt candidate).2 s else s) := by
  change execAnts candidate s = _
  unfold execAnts
  rcases parseAnt candidate with ⟨ok, sel⟩
  cases ok <;> rfl

theorem exec_wrName (r : RegName) (p : Nat) (s : State) :
    exec (.wrName r p) s = encodeAndTransmit (s.params.addr.get r).toNat p s := rfl

theorem exec_boot (s : State) : exec .boot s = andThen (fullInitialize s) registerChangeHooks := rfl

theorem encodeAndTransmit_sh {a p : Nat} {s t : State} (h : encodeAndTransmit a p s = .next t) :
    t.sh = s.sh := by
  by_cases hphase : s.phase = .reset
  · rw [encodeAndTransmit_refused hphase] at h
    cases h
    rfl
  · rw [encodeAndTransmit, if_pos ((admitsWr_iff _).2 hphase)] at h
    obtain ⟨u, hu, ht⟩ := andThen_eq_next.1 h
    rw [complete_eq_next ht, xmit_eq_next hu]

theorem registerChangeHooks_sh {s t : State} (h : registerChangeHooks s = .next t) : t.sh = s.sh := by
  by_cases hphase : s.phase = .init
  · rw [registerChangeHooks, if_pos ((admitsHook_iff _).2 hphase)] at h
    obtain ⟨u, hu, ht⟩ := andThen_eq_next.1 h
    rw [complete_eq_next ht, emit_eq_next hu]
    rfl
  · rw [registerChangeHooks_refused hphase] at h
    cases h
    rfl

theorem fullInitialize_sh {s t : State} (hphase : s.phase ≠ .reset) (h : fullInitialize s = .next t) :
    t.sh = s.sh := by
  rw [fullInitialize_refused hphase] at h
  cases h
  rfl

theorem changeAntennaMode_sh {ok : Bool} {sel : Nat} {s t : State} (hphase : s.phase ≠ .ready)
    (h : changeAntennaMode ok sel s = .next t) : t.sh = s.sh := by
  rw [changeAntennaMode_refused ok sel hphase] at h
  cases h
  rfl

/-- Between INIT and HOOK no instruction writes a shadow: INIT and ANT are refused, WR and HOOK write
none (R22, R121). -/
theorem exec_sh_of_phase_init {i : Instr} {s t : State} (hphase : s.phase = .init)
    (h : exec i s = .next t) : t.sh = s.sh := by
  have hreset : s.phase ≠ .reset := by simp [hphase]
  have hready : s.phase ≠ .ready := by simp [hphase]
  cases i with
  | wr a p => exact encodeAndTransmit_sh h
  | init => exact fullInitialize_sh hreset h
  | hook => exact registerChangeHooks_sh h
  | ant ok sel => exact changeAntennaMode_sh hready h
  | ants candidate =>
    rw [exec_ants] at h
    split_ifs at h
    · exact changeAntennaMode_sh (s := storeAntSel (parseAnt candidate).2 s) hready h
    · exact changeAntennaMode_sh hready h
  | wrName r p => exact encodeAndTransmit_sh h
  | boot =>
    obtain ⟨u, hu, ht⟩ := andThen_eq_next.1 h
    rw [registerChangeHooks_sh ht, fullInitialize_sh hreset hu]

/-! ### The state machine (R103) -/

/-- The LNA-mode field after a successful ANT is the pattern of its selection. -/
theorem newConf1_and_mask {p : Params} (hw2 : p.W2) (old : Word32) (sel : Nat) :
    newConf1 p old sel &&& p.lnaMask = patternOf p sel :=
  replaceField_and_mask (modePattern_and_not_mask hw2 sel)

/-- A successful ANT keeps CONF1 outside the LNA-mode field. -/
theorem newConf1_and_not_mask {p : Params} (hw2 : p.W2) (old : Word32) (sel : Nat) :
    newConf1 p old sel &&& ~~~p.lnaMask = old &&& ~~~p.lnaMask :=
  replaceField_and_not_mask (modePattern_and_not_mask hw2 sel)

@[simp] theorem transactions_done (st : Status) : transactions [.done st] = 0 := rfl

theorem transactions_afterFailedAnt (s : State) :
    transactions (afterFailedAnt s).trace = transactions s.trace := by
  simp [afterFailedAnt]

theorem transactions_afterAnt (sel : Nat) (old : Word32) (s : State) :
    transactions (afterAnt sel old s).trace = transactions s.trace + 1 := by
  simp [afterAnt]

/-- Settles O44: ANT leaves `afterFailedAnt` or `afterAnt`, and the invariant with W4 gives the field's
value in the other phases. -/
theorem modeStateMachine : Obligations.ModeStateMachine := by
  refine ⟨fun ok sel s v _ hwf hacc hphase hv => ?_, fun s hinv hphase => ?_,
    fun s hinv hwf hphase => ?_⟩
  · obtain ⟨-, hw2, -⟩ := hwf
    cases ok with
    | false =>
      exact ⟨afterFailedAnt s, v, changeAntennaMode_failed sel hphase hacc, hv, rfl, rfl,
        transactions_afterFailedAnt s⟩
    | true =>
      exact ⟨afterAnt sel v s, newConf1 s.params v sel, changeAntennaMode_succeeded sel hphase hacc hv,
        rfl, newConf1_and_not_mask hw2 v sel, newConf1_and_mask hw2 v sel,
        transactions_afterAnt sel v s⟩
  · exact hinv.resetIffUnwritten.1 hphase .conf1
  · obtain ⟨-, -, -, hw4, -⟩ := hwf
    have hconf1 : s.sh.conf1 = some s.params.initConf1 := hinv.conf1FreshInInit hphase
    exact ⟨s.params.initConf1, hconf1, hw4, fun i t h => by rw [exec_sh_of_phase_init hphase h, hconf1]⟩

end Sys2Proof.Machine
end

section
/-! How a presented command ends (60_exceptions.md): the phase table of R121 command by command, and the
order of the checks of R128 on a packed word. -/

namespace Sys2Proof.Machine

open Sys2Proof.Safety

/-! ### The phase table (R121) -/

theorem refusedAs_wr (a p : Nat) (ph : Phase) :
    refusedAs (.wr a p) ph = if ph = .reset then some .phaseWr else none := by
  cases ph <;> rfl

theorem refusedAs_init (ph : Phase) :
    refusedAs .init ph = if ph = .reset then none else some .phaseInit := by
  cases ph <;> rfl

theorem refusedAs_hook (ph : Phase) :
    refusedAs .hook ph = if ph = .init then none else some .phaseHook := by
  cases ph <;> rfl

theorem refusedAs_ant (ok : Bool) (sel : Nat) (ph : Phase) :
    refusedAs (.ant ok sel) ph = if ph = .ready then none else some .phaseAnt := by
  cases ph <;> rfl

/-- Where the table refuses an instruction, the instruction is the refusal, whatever the services do. -/
theorem exec_of_refusedAs_eq_some {i : Instr} {s : State} {r : Reason}
    (hrefused : refusedAs i s.phase = some r) : exec i s = .next (refusedWith r s) := by
  cases i with
  | wr a p =>
    rw [refusedAs_wr, Option.ite_none_right_eq_some] at hrefused
    obtain ⟨hphase, ⟨⟩⟩ := hrefused
    rw [exec_wr, encodeAndTransmit_refused hphase]
  | init =>
    rw [refusedAs_init, Option.ite_none_left_eq_some] at hrefused
    obtain ⟨hphase, ⟨⟩⟩ := hrefused
    rw [exec_init, fullInitialize_refused hphase]
  | hook =>
    rw [refusedAs_hook, Option.ite_none_left_eq_some] at hrefused
    obtain ⟨hphase, ⟨⟩⟩ := hrefused
    rw [exec_hook, registerChangeHooks_refused hphase]
  | ant ok sel =>
    rw [refusedAs_ant, Option.ite_none_left_eq_some] at hrefused
    obtain ⟨hphase, ⟨⟩⟩ := hrefused
    rw [exec_ant, changeAntennaMode_refused ok sel hphase]
  | ants candidate => cases hrefused
  | wrName r p => cases hrefused
  | boot => cases hrefused

/-- R34 (I2): outside `P_RESET` the CONF1 shadow holds a value, so that ANT can read it. -/
theorem exists_conf1_of_inv {s : State} (hinv : Inv s) (hphase : s.phase ≠ .reset) :
    ∃ old, s.sh.conf1 = some old :=
  Option.ne_none_iff_exists'.1 fun hnone => by
    have hconst : initConst s.params .conf1 = none := (hinv.sevenWritten hphase .conf1).1 hnone
    cases hconst

/-- Where the table admits a command, the command completes with its status and leaves the table's phase. -/
theorem exec_of_refusedAs_eq_none {i : Instr} {s : State} (hcmd : i.isCommand = true) (hinv : Inv s)
    (hacc : ServicesAccept s) (hadmitted : refusedAs i s.phase = none) :
    ∃ t, exec i s = .next t ∧ t.outcomes = s.outcomes ++ [.completed (statusOf i)] ∧
      t.phase = phaseAfter i s.phase := by
  cases i with
  | wr a p =>
    have hphase : s.phase ≠ .reset := by simpa [refusedAs_wr] using hadmitted
    exact ⟨afterWr a p s, encodeAndTransmit_admitted hphase hacc, rfl, rfl⟩
  | init =>
    have hphase : s.phase = .reset := by simpa [refusedAs_init] using hadmitted
    exact ⟨afterInit s, fullInitialize_admitted hphase hacc, rfl, rfl⟩
  | hook =>
    have hphase : s.phase = .init := by simpa [refusedAs_hook] using hadmitted
    exact ⟨afterHook s, registerChangeHooks_admitted hphase hacc, rfl, rfl⟩
  | ant ok sel =>
    have hphase : s.phase = .ready := by simpa [refusedAs_ant] using hadmitted
    cases ok with
    | false => exact ⟨afterFailedAnt s, changeAntennaMode_failed sel hphase hacc, rfl, rfl⟩
    | true =>
      obtain ⟨old, hold⟩ := exists_conf1_of_inv hinv (by simp [hphase])
      exact ⟨afterAnt sel old s, changeAntennaMode_succeeded sel hphase hacc hold, rfl, rfl⟩
  | ants candidate => cases hcmd
  | wrName r p => cases hcmd
  | boot => cases hcmd

/-- Settles O25: the phase alone decides, and each admitted command leaves its own state. -/
theorem admissionByPhase : Obligations.AdmissionByPhase := fun _ _ hcmd hinv hacc =>
  ⟨fun _ => exec_of_refusedAs_eq_some, exec_of_refusedAs_eq_none hcmd hinv hacc⟩

/-! ### The order of the checks on a packed word (R128) -/

/-- R68: an operation code outside 1 to 4. -/
theorem decode_eq_rsvdOp {cw : CommandWord} (hop : cw.toNat / 2 ^ 44 = 0 ∨ 4 < cw.toNat / 2 ^ 44) :
    decode cw = .error .rsvdOp := by
  obtain ⟨hfields, -⟩ := decodeByFields
  rw [hfields, if_neg (by omega), if_neg (by omega), if_neg (by omega), if_neg (by omega)]

/-- R69: a known operation code with a reserved bit of its format set. -/
theorem decode_eq_rsvdBits {cw : CommandWord}
    (hbits : (cw.toNat / 2 ^ 44 = 1 ∧ cw.toNat / 2 ^ 40 % 16 ≠ 0) ∨
      (cw.toNat / 2 ^ 44 = 2 ∧ cw.toNat % 2 ^ 44 ≠ 0) ∨
      (cw.toNat / 2 ^ 44 = 3 ∧ cw.toNat % 2 ^ 44 ≠ 0) ∨
      (cw.toNat / 2 ^ 44 = 4 ∧ cw.toNat % 2 ^ 44 / 2 ^ 3 ≠ 0)) :
    decode cw = .error .rsvdBits := by
  obtain ⟨hfields, -⟩ := decodeByFields
  rw [hfields]
  rcases hbits with ⟨hop, hset⟩ | ⟨hop, hset⟩ | ⟨hop, hset⟩ | ⟨hop, hset⟩
  · rw [if_pos hop, if_pos hset]
  · rw [if_neg (by omega), if_pos hop, if_pos hset]
  · rw [if_neg (by omega), if_neg (by omega), if_pos hop, if_pos hset]
  · rw [if_neg (by omega), if_neg (by omega), if_neg (by omega), if_pos hop, if_pos hset]

theorem step_of_decode_ok {s : State} {cw : CommandWord} {rest : List HostInput} {i : Instr}
    (hpending : s.pending = .word cw :: rest) (hdecode : decode cw = .ok i) :
    step s = exec i { s with pending := rest } := by
  simp [step, takeInput, request, hpending, hdecode]

theorem step_of_decode_error {s : State} {cw : CommandWord} {rest : List HostInput} {r : Reason}
    (hpending : s.pending = .word cw :: rest) (hdecode : decode cw = .error r) :
    step s = .next (refusedWith r { s with pending := rest }) := by
  simp [step, takeInput, request, hpending, hdecode, refuse_eq]

/-- Settles O12: the first two checks are the decoder's, the third is the phase table's, and the handler
of ANT comes to `ok` last. -/
theorem checksComeInOrder : Obligations.ChecksComeInOrder := by
  refine fun s cw rest hpending => ⟨fun hop => ?_, fun hbits => ?_, fun i r hdecode hrefused => ?_,
    fun sel hdecode hphase hacc => ?_⟩
  · exact step_of_decode_error hpending (decode_eq_rsvdOp hop)
  · exact step_of_decode_error hpending (decode_eq_rsvdBits hbits)
  · rw [step_of_decode_ok hpending hdecode]
    exact exec_of_refusedAs_eq_some hrefused
  · rw [step_of_decode_ok hpending hdecode, exec_ant]
    exact changeAntennaMode_failed sel hphase hacc

end Sys2Proof.Machine
end

section
/-! The reset input (70_reset_and_hazards.md section 1) and the phase: what each command makes of the
phase when it answers a next state (R23, R121), so that no command leads back to `P_RESET`. -/

namespace Sys2Proof.Machine

open Sys2Proof.Safety

/-! ### The phase each command leaves (R23) -/

theorem memWrite_phase {a p : Nat} {s t : State} (h : memWrite a p s = .next t) : t.phase = s.phase := by
  rw [xmit_eq_next h]

theorem sendShadow_phase {r : RegName} {s t : State} (h : sendShadow r s = .next t) :
    t.phase = s.phase := by
  obtain ⟨v, -, hsend⟩ := readShadow_eq_next h
  exact memWrite_phase hsend

theorem complete_phase {st : Status} {s t : State} (h : complete st s = .next t) :
    t.phase = s.phase := by
  rw [complete_eq_next h]

theorem encodeAndTransmit_phase {a p : Nat} {s t : State} (h : encodeAndTransmit a p s = .next t) :
    t.phase = s.phase := by
  by_cases hphase : s.phase = .reset
  · rw [encodeAndTransmit_refused hphase] at h
    cases h
    rfl
  · rw [encodeAndTransmit, if_pos ((admitsWr_iff _).2 hphase)] at h
    obtain ⟨u, hu, ht⟩ := andThen_eq_next.1 h
    rw [complete_phase ht, memWrite_phase hu]

/-- INIT leads out of `P_RESET`: an admitted one sets `P_INIT` just before `DONE(1)` (R90). -/
theorem fullInitialize_phase {s t : State} (h : fullInitialize s = .next t) :
    t.phase = if s.phase = .reset then .init else s.phase := by
  by_cases hphase : s.phase = .reset
  · rw [fullInitialize, if_pos ((admitsInit_iff _).2 hphase)] at h
    obtain ⟨_, -, hloop⟩ := andThen_eq_next.1 h
    obtain ⟨_, -, ht⟩ := andThen_eq_next.1 hloop
    rw [complete_phase ht, if_pos hphase, setPhase_phase]
  · rw [fullInitialize_refused hphase] at h
    cases h
    rw [if_neg hphase]
    rfl

theorem registerChangeHooks_phase {s t : State} (h : registerChangeHooks s = .next t) :
    t.phase = if s.phase = .init then .ready else s.phase := by
  by_cases hphase : s.phase = .init
  · rw [registerChangeHooks, if_pos ((admitsHook_iff _).2 hphase)] at h
    obtain ⟨_, -, ht⟩ := andThen_eq_next.1 h
    rw [complete_phase ht, if_pos hphase, setPhase_phase]
  · rw [registerChangeHooks_refused hphase] at h
    cases h
    rw [if_neg hphase]
    rfl

theorem replaceLnaMode_phase {sel : Nat} {s t : State} (h : replaceLnaMode sel s = .next t) :
    t.phase = s.phase := by
  obtain ⟨v, -, hwrite⟩ := readShadow_eq_next h
  cases hwrite
  rfl

theorem emitNotice_phase {sel : Nat} {s t : State} (h : emitNotice sel s = .next t) :
    t.phase = s.phase := by
  unfold emitNotice at h
  split at h
  · rw [emit_eq_next h]
  · cases h
    rfl

theorem changeAntennaMode_phase {ok : Bool} {sel : Nat} {s t : State}
    (h : changeAntennaMode ok sel s = .next t) : t.phase = s.phase := by
  by_cases hphase : s.phase = .ready
  · rw [changeAntennaMode, if_pos ((admitsAnt_iff _).2 hphase)] at h
    split at h
    · obtain ⟨u, hu, hafter⟩ := andThen_eq_next.1 h
      obtain ⟨v, hv, hafter⟩ := andThen_eq_next.1 hafter
      obtain ⟨w, hw, ht⟩ := andThen_eq_next.1 hafter
      rw [complete_phase ht, emitNotice_phase hw, sendShadow_phase hv, replaceLnaMode_phase hu]
    · exact complete_phase h
  · rw [changeAntennaMode_refused ok sel hphase] at h
    cases h
    rfl

theorem fullInitialize_phase_ne_reset {s t : State} (h : fullInitialize s = .next t) :
    t.phase ≠ .reset := by
  rw [fullInitialize_phase h]
  split_ifs with hphase
  · decide
  · exact hphase

theorem registerChangeHooks_phase_ne_reset {s t : State} (hphase : s.phase ≠ .reset)
    (h : registerChangeHooks s = .next t) : t.phase ≠ .reset := by
  rw [registerChangeHooks_phase h]
  split_ifs
  · decide
  · exact hphase

/-- No instruction leads back to `P_RESET` (R23, R140). -/
theorem exec_phase_ne_reset {i : Instr} {s t : State} (hphase : s.phase ≠ .reset)
    (h : exec i s = .next t) : t.phase ≠ .reset := by
  cases i with
  | wr a p => rwa [encodeAndTransmit_phase h]
  | init => exact fullInitialize_phase_ne_reset h
  | hook => exact registerChangeHooks_phase_ne_reset hphase h
  | ant ok sel => rwa [changeAntennaMode_phase h]
  | ants candidate =>
    rw [exec_ants] at h
    rw [changeAntennaMode_phase h]
    split_ifs <;> exact hphase
  | wrName r p => rwa [encodeAndTransmit_phase h]
  | boot =>
    obtain ⟨u, hu, ht⟩ := andThen_eq_next.1 h
    exact registerChangeHooks_phase_ne_reset (fullInitialize_phase_ne_reset hu) ht

/-! ### The reset input (R140) -/

theorem step_of_reset {s : State} {rest : List HostInput} (hpending : s.pending = .reset :: rest) :
    step s = .next (powerUp { s with pending := rest }) := by
  simp [step, takeInput, request, hpending]

/-- A step into `P_RESET` from another phase is the reset input's: waiting and a rejected word leave
the phase, and no instruction leads back. -/
theorem head_pending_of_step_to_reset {s t : State} (hphase : s.phase ≠ .reset)
    (h : step s = .next t) (ht : t.phase = .reset) : s.pending.head? = some .reset := by
  obtain ⟨-, rfl⟩ | ⟨_, rest, i, -, -, hexec⟩ | ⟨_, _, _, -, -, rfl⟩ |
    ⟨input, rest, hpending, hask, -⟩ := step_eq_next h
  · exact absurd ht hphase
  · exact absurd ht (exec_phase_ne_reset (s := { s with pending := rest }) hphase hexec)
  · exact absurd ht hphase
  · rw [hpending, request_eq_powerUp hask]
    rfl

/-- Settles O13: the reset input leaves `powerUp`, and from another phase nothing else leads to
`P_RESET`. -/
theorem resetInputIsPowerUp : Obligations.ResetInputIsPowerUp := by
  refine ⟨fun s rest hpending => ?_, fun s t h ht => ?_⟩
  · exact ⟨powerUp { s with pending := rest }, step_of_reset hpending, Shadows.get_unwritten, rfl, rfl,
      LastTx.at_replicate_none, rfl⟩
  · exact or_iff_not_imp_left.2 fun hphase => head_pending_of_step_to_reset hphase h ht

end Sys2Proof.Machine
end

section
/-! The command word in both directions (30_encoding.md sections 2 and 4): packed words as numbers, the
decoder's answer on them (R64, R67), and the decoder read off the opcode table (R75). -/

namespace Sys2Proof

/-! ### Packed words as numbers (R64) -/

theorem toNat_append_eq_add {m n : Nat} (x : BitVec m) (y : BitVec n) :
    (x ++ y).toNat = x.toNat * 2 ^ n + y.toNat := by
  rw [BitVec.toNat_append, ← Nat.shiftLeft_add_eq_or_of_lt y.isLt, Nat.shiftLeft_eq]

theorem packW_toNat {a p : Nat} (ha : a < 2 ^ 8) (hp : p < 2 ^ 32) :
    (packW a p).toNat = 2 ^ 44 + a * 2 ^ 32 + p := by
  simp only [packW, toNat_append_eq_add, BitVec.toNat_ofNat, Nat.mod_eq_of_lt ha, Nat.mod_eq_of_lt hp]
  omega

theorem packA_toNat (ok : Bool) {sel : Nat} (hsel : sel < 2 ^ 2) :
    (packA ok sel).toNat = 4 * 2 ^ 44 + ok.toNat * 2 ^ 2 + sel := by
  simp only [packA, toNat_append_eq_add, BitVec.toNat_ofNat, BitVec.toNat_ofBool, Nat.mod_eq_of_lt hsel]
  omega

/-! ### What the decoder answers, by the number of the word (R67) -/

theorem decode_eq_ok_wr_iff (cw : CommandWord) (a p : Nat) : decode cw = .ok (.wr a p) ↔
    a < 2 ^ 8 ∧ p < 2 ^ 32 ∧ cw.toNat = 2 ^ 44 + a * 2 ^ 32 + p := by
  obtain ⟨hfields, -⟩ := decodeByFields
  rw [hfields]
  split_ifs <;> simp <;> omega

theorem decode_eq_ok_init_iff (cw : CommandWord) : decode cw = .ok .init ↔ cw.toNat = 2 * 2 ^ 44 := by
  obtain ⟨hfields, -⟩ := decodeByFields
  rw [hfields]
  split_ifs <;> simp <;> omega

theorem decode_eq_ok_hook_iff (cw : CommandWord) : decode cw = .ok .hook ↔ cw.toNat = 3 * 2 ^ 44 := by
  obtain ⟨hfields, -⟩ := decodeByFields
  rw [hfields]
  split_ifs <;> simp <;> omega

theorem decode_eq_ok_ant_iff (cw : CommandWord) (ok : Bool) (sel : Nat) : decode cw = .ok (.ant ok sel) ↔
    sel < 2 ^ 2 ∧ cw.toNat = 4 * 2 ^ 44 + ok.toNat * 2 ^ 2 + sel := by
  obtain ⟨hfields, -⟩ := decodeByFields
  rw [hfields]
  cases ok <;> split_ifs <;> simp <;> omega

/-- R75: no word decodes to a pseudo-instruction. -/
theorem isCommand_of_decode {cw : CommandWord} {i : Instr} (hdecode : decode cw = .ok i) :
    i.isCommand = true := by
  unfold decode at hdecode
  split_ifs at hdecode <;> cases hdecode <;> rfl

/-- A command decodes from exactly its own packed word, and only where its operands fit (R64, R65). -/
theorem decode_eq_ok_iff (addr : AddrMap) (cw : CommandWord) {i : Instr} (hcmd : i.isCommand = true) :
    decode cw = .ok i ↔ i.wellFormed = true ∧ encode addr i = [cw] := by
  cases i with
  | wr a p =>
    have hfits : (Instr.wr a p).wellFormed = true ↔ a < 2 ^ 8 ∧ p < 2 ^ 32 := by simp [Instr.wellFormed]
    rw [decode_eq_ok_wr_iff, ← and_assoc, ← hfits]
    refine and_congr_right fun hwf => ?_
    obtain ⟨ha, hp⟩ := hfits.1 hwf
    rw [encode, if_pos hwf, List.singleton_inj, ← BitVec.toNat_inj, packW_toNat ha hp, eq_comm]
  | init =>
    have hwf : Instr.init.wellFormed = true := rfl
    rw [decode_eq_ok_init_iff, encode, if_pos hwf, and_iff_right hwf, List.singleton_inj,
      ← BitVec.toNat_inj, eq_comm]
    rfl
  | hook =>
    have hwf : Instr.hook.wellFormed = true := rfl
    rw [decode_eq_ok_hook_iff, encode, if_pos hwf, and_iff_right hwf, List.singleton_inj,
      ← BitVec.toNat_inj, eq_comm]
    rfl
  | ant ok sel =>
    have hfits : (Instr.ant ok sel).wellFormed = true ↔ sel < 2 ^ 2 := by simp [Instr.wellFormed]
    rw [decode_eq_ok_ant_iff, ← hfits]
    refine and_congr_right fun hwf => ?_
    rw [encode, if_pos hwf, List.singleton_inj, ← BitVec.toNat_inj, packA_toNat ok (hfits.1 hwf), eq_comm]
  | ants candidate => cases hcmd
  | wrName r p => cases hcmd
  | boot => cases hcmd

theorem exists_encode_of_isCommand (addr : AddrMap) {i : Instr} (hcmd : i.isCommand = true)
    (hwf : i.wellFormed = true) : ∃ cw, encode addr i = [cw] := by
  cases i with
  | wr a p => exact ⟨_, if_pos hwf⟩
  | init => exact ⟨_, if_pos hwf⟩
  | hook => exact ⟨_, if_pos hwf⟩
  | ant ok sel => exact ⟨_, if_pos hwf⟩
  | ants candidate => cases hcmd
  | wrName r p => cases hcmd
  | boot => cases hcmd

theorem expansion_wellFormed {i : Instr} (hwf : i.wellFormed = true) (addr : AddrMap) :
    ∀ c ∈ expand addr i, c.isCommand = true ∧ c.wellFormed = true := by
  have hstatement : Laws.Expansion.Statement i := by
    cases i with
    | wr a p => exact Laws.Expansion.wr a p
    | init => exact Laws.Expansion.init
    | hook => exact Laws.Expansion.hook
    | ant ok sel => exact Laws.Expansion.ant ok sel
    | ants candidate => exact Laws.Expansion.ants candidate
    | wrName r p => exact Laws.Expansion.wrName r p
    | boot => exact Laws.Expansion.boot
  exact (hstatement hwf addr).2

/-- The words of a well-formed instruction are those of its expansion, in order (R74). -/
theorem encode_eq_flatMap_expand {i : Instr} (hwf : i.wellFormed = true) (addr : AddrMap) :
    encode addr i = (expand addr i).flatMap (encode addr) := by
  have hexpand := expansion_wellFormed hwf addr
  cases i <;> simp_all [expand, encode]

theorem map_decode_flatMap_encode (addr : AddrMap) {cs : List Instr}
    (hcs : ∀ c ∈ cs, c.isCommand = true ∧ c.wellFormed = true) :
    (cs.flatMap (encode addr)).map decode = cs.map .ok := by
  induction cs with
  | nil => rfl
  | cons c cs ih =>
    obtain ⟨⟨hcmd, hwf⟩, hrest⟩ := List.forall_mem_cons.1 hcs
    obtain ⟨cw, hcw⟩ := exists_encode_of_isCommand addr hcmd hwf
    rw [List.flatMap_cons, List.map_append, hcw, ih hrest, List.map_singleton,
      (decode_eq_ok_iff addr cw hcmd).2 ⟨hwf, hcw⟩]
    rfl

/-- Settles O5: an instruction's words are those of its expansion, and each command of that decodes from
its own word. -/
theorem decodeOfEncodeIsTheInstruction : Obligations.DecodeOfEncodeIsTheInstruction := by
  refine fun addr i hwf => ⟨?_, fun hcmd => ?_⟩
  · rw [encode_eq_flatMap_expand hwf, map_decode_flatMap_encode addr (expansion_wellFormed hwf addr)]
  · obtain ⟨cw, hcw⟩ := exists_encode_of_isCommand addr hcmd hwf
    exact ⟨cw, hcw, (decode_eq_ok_iff addr cw hcmd).2 ⟨hwf, hcw⟩⟩

/-- Settles O6: only commands come out of the decoder, and each from its own word alone. -/
theorem encodeOfDecodeIsTheWord : Obligations.EncodeOfDecodeIsTheWord := by
  intro addr cw i hdecode
  have hcmd := isCommand_of_decode hdecode
  obtain ⟨hwf, hcw⟩ := (decode_eq_ok_iff addr cw hcmd).1 hdecode
  exact ⟨hwf, hcmd, hcw⟩

/-- Settles O9, by running the decoder on the eleven words. -/
theorem writtenOutWordsDecode : Obligations.WrittenOutWordsDecode := by
  unfold Obligations.WrittenOutWordsDecode
  decide

/-! ### The decoder from the table (R75) -/

/-- A mask of all bits from `k` up keeps the number down to its multiple of `2 ^ k`. -/
theorem toNat_and_allOnes_shiftLeft (cw : CommandWord) (k : Nat) :
    (cw &&& BitVec.allOnes 48 <<< k).toNat = cw.toNat / 2 ^ k * 2 ^ k := by
  have hlt : cw.toNat / 2 ^ k * 2 ^ k < 2 ^ 48 := (Nat.div_mul_le_self _ _).trans_lt cw.isLt
  rw [← BitVec.shiftLeft_ushiftRight, BitVec.toNat_shiftLeft, BitVec.toNat_ushiftRight,
    Nat.shiftLeft_eq, Nat.shiftRight_eq_div_pow, Nat.mod_eq_of_lt hlt]

theorem matches_wr_iff (cw : CommandWord) : cw &&& 0xFF0000000000#48 = 0x100000000000#48 ↔
    cw.toNat / 2 ^ 44 = 1 ∧ cw.toNat / 2 ^ 40 % 16 = 0 := by
  have hmask : 0xFF0000000000#48 = BitVec.allOnes 48 <<< 40 := by decide
  rw [hmask, ← BitVec.toNat_inj, toNat_and_allOnes_shiftLeft, BitVec.toNat_ofNat]
  omega

/-- INIT's and HOOK's rows match their pattern alone. -/
theorem matches_all_iff (cw pattern : CommandWord) :
    cw &&& 0xFFFFFFFFFFFF#48 = pattern ↔ cw.toNat = pattern.toNat := by
  have hmask : 0xFFFFFFFFFFFF#48 = BitVec.allOnes 48 := by decide
  rw [hmask, BitVec.and_allOnes, BitVec.toNat_inj]

theorem matches_ant_iff (cw : CommandWord) : cw &&& 0xFFFFFFFFFFF8#48 = 0x400000000000#48 ↔
    cw.toNat / 2 ^ 44 = 4 ∧ cw.toNat % 2 ^ 44 / 2 ^ 3 = 0 := by
  have hmask : 0xFFFFFFFFFFF8#48 = BitVec.allOnes 48 <<< 3 := by decide
  rw [hmask, ← BitVec.toNat_inj, toNat_and_allOnes_shiftLeft, BitVec.toNat_ofNat]
  omega

theorem decodeByTable_eq (cw : CommandWord) : decodeByTable cw =
    if cw.toNat / 2 ^ 44 = 1 ∧ cw.toNat / 2 ^ 40 % 16 = 0 then some (readW cw)
    else if cw.toNat = 2 * 2 ^ 44 then some .init
    else if cw.toNat = 3 * 2 ^ 44 then some .hook
    else if cw.toNat / 2 ^ 44 = 4 ∧ cw.toNat % 2 ^ 44 / 2 ^ 3 = 0 then some (readA cw)
    else none := by
  unfold decodeByTable opcodeRows
  split_ifs <;> simp_all [matches_wr_iff, matches_all_iff, matches_ant_iff]

/-- Settles O8: a row matches exactly where the decoder's test for its operation code and its reserved
bits both pass, and the operation codes differ. -/
theorem tableDecoderIsTheDecoder : Obligations.TableDecoderIsTheDecoder := by
  refine ⟨fun cw => ?_, fun cw => ?_⟩
  · obtain ⟨hfields, -⟩ := decodeByFields
    rw [decodeByTable_eq, hfields, readW_eq_wr, readA_eq_ant]
    split_ifs <;> simp [Except.toOption] <;> omega
  · simp only [opcodeRows, List.filter_cons, List.filter_nil, matches_wr_iff, matches_all_iff,
      matches_ant_iff, decide_eq_true_eq, BitVec.toNat_ofNat]
    split_ifs <;> simp <;> omega

end Sys2Proof
end

section
/-! What the wire word keeps of its operands (40_codec.md section 3, 30_encoding.md section 1), read off its
number. -/

namespace Sys2Proof.Machine

open Sys2Proof.Safety

/-- Settles O3: payload and address are the quotient and the remainder of the word's number by 16. -/
theorem wireWordsEqualExactlyOnReducedOperands : Obligations.WireWordsEqualExactlyOnReducedOperands := by
  intro a p a' p'
  rw [← BitVec.toNat_inj, encodeWire_toNat, encodeWire_toNat, wireNumber, wireNumber]
  omega

theorem decodeWire_eq (w : Word32) : decodeWire w = (w.toNat % 16, w.toNat / 2 ^ 4) := by
  rw [decodeWire, Nat.shiftRight_eq_div_pow]
  exact congrArg (·, _) (Nat.and_two_pow_sub_one_eq_mod w.toNat 4)

theorem decodeWire_encodeWire (a p : Nat) : decodeWire (encodeWire a p) = (a % 16, p % 2 ^ 28) := by
  rw [decodeWire_eq, encodeWire_toNat, wireNumber, Prod.mk.injEq]
  omega

theorem encodeWire_decodeWire (w : Word32) : encodeWire (decodeWire w).1 (decodeWire w).2 = w := by
  apply BitVec.eq_of_toNat_eq
  have hlt := w.isLt
  rw [decodeWire_eq, encodeWire_toNat, wireNumber]
  omega

/-- The last byte of a wire word: the payload's low four bits above the address. -/
theorem bytesOf_encodeWire_last (a p : Nat) :
    ((bytesOf (encodeWire a p))[3]?.map BitVec.toNat) = some (((p % 16) <<< 4) ||| (a % 16)) := by
  have haddr : a % 16 < 2 ^ 4 := Nat.mod_lt a (by decide)
  rw [← List.getElem?_map, bytesOf_map_toNat, encodeWire_toNat, wireNumber,
    ← Nat.shiftLeft_add_eq_or_of_lt haddr, Nat.shiftLeft_eq]
  simp
  omega

theorem bytesOf_encodeWire_first (a p : Nat) :
    ((bytesOf (encodeWire a p))[0]?.map BitVec.toNat) = some ((p >>> 20) % 256) := by
  rw [← List.getElem?_map, bytesOf_map_toNat, encodeWire_toNat, wireNumber, Nat.shiftRight_eq_div_pow]
  simp
  omega

/-- Settles O4: both directions and both bytes are arithmetic on the word's number. -/
theorem wireDecodeInvertsEncode : Obligations.WireDecodeInvertsEncode :=
  ⟨decodeWire_encodeWire, encodeWire_decodeWire, bytesOf_encodeWire_last, bytesOf_encodeWire_first⟩

end Sys2Proof.Machine
end

section
/-! What an instruction that answered a next state has done. A command was refused or did what its rule
says (R84, R90, R95, R100, R122), as far as the services' budget went (R129); a pseudo-instruction is the
commands of its expansion (R74). -/

namespace Sys2Proof.Machine

open Sys2Proof.Safety

/-! ### The effect of a command, the services' budget aside -/

/-- The state a command that is not stuck leaves, by the rule for it. -/
inductive Effect : Instr → State → State → Prop
  | refused {i : Instr} {s : State} {r : Reason} (hrefused : refusedAs i s.phase = some r) :
      Effect i s (refusedWith r s)
  | wr {a p : Nat} {s : State} (hphase : s.phase ≠ .reset) : Effect (.wr a p) s (afterWr a p s)
  | init {s : State} (hphase : s.phase = .reset) : Effect .init s (afterInit s)
  | hook {s : State} (hphase : s.phase = .init) : Effect .hook s (afterHook s)
  | failedAnt {sel : Nat} {s : State} (hphase : s.phase = .ready) :
      Effect (.ant false sel) s (afterFailedAnt s)
  | ant {sel : Nat} {old : Word32} {s : State} (hphase : s.phase = .ready)
      (hold : s.sh.conf1 = some old) : Effect (.ant true sel) s (afterAnt sel old s)

theorem changeAntennaMode_reads_conf1 {sel : Nat} {s t : State} (hphase : s.phase = .ready)
    (h : changeAntennaMode true sel s = .next t) : ∃ old, s.sh.conf1 = some old := by
  rw [changeAntennaMode, if_pos ((admitsAnt_iff _).2 hphase), if_pos rfl] at h
  obtain ⟨u, hread, -⟩ := andThen_eq_next.1 h
  obtain ⟨old, hold, -⟩ := readShadow_eq_next hread
  exact ⟨old, hold⟩

theorem Effect.of_exec {i : Instr} {s t : State} (hcmd : i.isCommand = true) (hacc : ServicesAccept s)
    (h : exec i s = .next t) : Effect i s t := by
  cases hadmits : refusedAs i s.phase with
  | some r =>
    rw [exec_of_refusedAs_eq_some hadmits] at h
    cases h
    exact .refused hadmits
  | none =>
    cases i with
    | wr a p =>
      have hphase : s.phase ≠ .reset := by simpa [refusedAs_wr] using hadmits
      rw [exec_wr, encodeAndTransmit_admitted hphase hacc] at h
      cases h
      exact .wr hphase
    | init =>
      have hphase : s.phase = .reset := by simpa [refusedAs_init] using hadmits
      rw [exec_init, fullInitialize_admitted hphase hacc] at h
      cases h
      exact .init hphase
    | hook =>
      have hphase : s.phase = .init := by simpa [refusedAs_hook] using hadmits
      rw [exec_hook, registerChangeHooks_admitted hphase hacc] at h
      cases h
      exact .hook hphase
    | ant ok sel =>
      have hphase : s.phase = .ready := by simpa [refusedAs_ant] using hadmits
      rw [exec_ant] at h
      cases ok with
      | false =>
        rw [changeAntennaMode_failed sel hphase hacc] at h
        cases h
        exact .failedAnt hphase
      | true =>
        obtain ⟨old, hold⟩ := changeAntennaMode_reads_conf1 hphase h
        rw [changeAntennaMode_succeeded sel hphase hacc hold] at h
        cases h
        exact .ant hphase hold
    | ants candidate => cases hcmd
    | wrName r p => cases hcmd
    | boot => cases hcmd

theorem Effect.exec_eq {i : Instr} {s t : State} (heff : Effect i s t) (hacc : ServicesAccept s) :
    exec i s = .next t := by
  cases heff with
  | refused hrefused => exact exec_of_refusedAs_eq_some hrefused
  | wr hphase => exact encodeAndTransmit_admitted hphase hacc
  | init hphase => exact fullInitialize_admitted hphase hacc
  | hook hphase => exact registerChangeHooks_admitted hphase hacc
  | failedAnt hphase => exact changeAntennaMode_failed _ hphase hacc
  | ant hphase hold => exact changeAntennaMode_succeeded _ hphase hacc hold

/-- R31: a command appends to the trace. -/
theorem Effect.exists_trace {i : Instr} {s t : State} (heff : Effect i s t) :
    ∃ es, t.trace = s.trace ++ es := by
  cases heff with
  | refused _ => exact ⟨[], (List.append_nil _).symm⟩
  | wr _ => exact ⟨_, List.append_assoc _ _ _⟩
  | init _ => exact ⟨_, rfl⟩
  | hook _ => exact ⟨_, rfl⟩
  | failedAnt _ => exact ⟨_, rfl⟩
  | ant _ _ => exact ⟨_, by simp only [afterAnt, List.append_assoc]; rfl⟩

/-- R6: no command changes a parameter. -/
theorem Effect.params_eq {i : Instr} {s t : State} (heff : Effect i s t) : t.params = s.params := by
  cases heff <;> rfl

theorem Effect.stallAfter_eq {i : Instr} {s t : State} (heff : Effect i s t) :
    t.stallAfter = s.stallAfter := by
  cases heff <;> rfl

/-- What a command does the budget aside is the same under any budget. -/
theorem Effect.withBudget {i : Instr} {s t : State} (heff : Effect i s t) (b : Option Nat) :
    Effect i { s with stallAfter := b } { t with stallAfter := b } := by
  cases heff with
  | refused hrefused => exact .refused hrefused
  | wr hphase => exact .wr hphase
  | init hphase => exact .init hphase
  | hook hphase => exact .hook hphase
  | failedAnt hphase => exact .failedAnt hphase
  | ant hphase hold => exact .ant hphase hold

/-! ### Every instruction treats the budget as R129 says -/

/-- A handler behind an admission check. -/
theorem Budgeted.admitted (admits : Phase → Bool) {f : State → Result} (r : Reason) (hf : Budgeted f) :
    Budgeted fun s => if admits s.phase then f s else Machine.refuse r s :=
  Budgeted.choose (c := fun s => admits s.phase)
    (f := fun admitted s => if admitted then f s else Machine.refuse r s)
    (fun _ => ⟨rfl, fun _ => rfl⟩) fun
      | true => hf
      | false => Budgeted.refuse r

/-- A change of phase before a command completes. -/
theorem Budgeted.completeIn (ph : Phase) (st : Status) :
    Budgeted fun s => Machine.complete st (setPhase ph s) :=
  Budgeted.andThen (f := fun s => .next (setPhase ph s)) (Budgeted.pure fun _ => ⟨rfl, rfl, fun _ => rfl⟩)
    (Budgeted.complete st)

theorem encodeAndTransmit_budgeted (a p : Nat) : Budgeted (encodeAndTransmit a p) :=
  Budgeted.admitted admitsWr .phaseWr <| Budgeted.andThen (Budgeted.memWrite a p) (Budgeted.complete _)

theorem driveControlLines_budgeted : Budgeted driveControlLines :=
  Budgeted.andThen (Budgeted.holdLow _) (Budgeted.andThen (Budgeted.holdHigh _) (Budgeted.holdHigh _))

theorem fullInitialize_budgeted : Budgeted fullInitialize :=
  Budgeted.admitted admitsInit .phaseInit <|
    Budgeted.andThen driveControlLines_budgeted <|
      Budgeted.andThen
        (Budgeted.choose (c := fun s => initTable s.params) (f := storeAndSendAll)
          (fun _ => ⟨rfl, fun _ => rfl⟩) Budgeted.storeAndSendAll)
        (Budgeted.completeIn _ _)

theorem registerChangeHooks_budgeted : Budgeted registerChangeHooks :=
  Budgeted.admitted admitsHook .phaseHook <| Budgeted.andThen (Budgeted.emit _) (Budgeted.completeIn _ _)

theorem replaceLnaMode_budgeted (sel : Nat) : Budgeted (replaceLnaMode sel) :=
  Budgeted.readShadow .conf1
    (k := fun old s => .next
      (writeShadow .conf1 (replaceField s.params.lnaMask old (modePattern s.params sel)) s))
    fun _ => Budgeted.pure fun _ => ⟨rfl, rfl, fun _ => rfl⟩

theorem emitNotice_budgeted (sel : Nat) : Budgeted (emitNotice sel) :=
  Budgeted.choose (c := fun s => s.params.modelNotice)
    (f := fun kept s => if kept then emit (.notice (modeName sel)) s else .next s)
    (fun _ => ⟨rfl, fun _ => rfl⟩) fun
      | true => Budgeted.emit _
      | false => Budgeted.pure (u := id) fun _ => ⟨rfl, rfl, fun _ => rfl⟩

theorem changeAntennaMode_budgeted : ∀ (ok : Bool) (sel : Nat), Budgeted (changeAntennaMode ok sel)
  | true, sel =>
    Budgeted.admitted admitsAnt .phaseAnt <|
      Budgeted.andThen (replaceLnaMode_budgeted sel) <|
        Budgeted.andThen (Budgeted.sendShadow _) <|
          Budgeted.andThen (emitNotice_budgeted sel) (Budgeted.complete _)
  | false, _ => Budgeted.admitted admitsAnt .phaseAnt (Budgeted.complete _)

theorem exec_budgeted (i : Instr) : Budgeted (exec i) := by
  cases i with
  | wr a p => exact encodeAndTransmit_budgeted a p
  | init => exact fullInitialize_budgeted
  | hook => exact registerChangeHooks_budgeted
  | ant ok sel => exact changeAntennaMode_budgeted ok sel
  | ants candidate =>
    have hstore : Quiet fun s =>
        if (parseAnt candidate).1 then storeAntSel (parseAnt candidate).2 s else s := fun s => by
      cases (parseAnt candidate).1 <;> exact ⟨rfl, rfl, fun _ => rfl⟩
    rw [funext (exec_ants candidate)]
    exact Budgeted.andThen (Budgeted.pure hstore) (changeAntennaMode_budgeted _ _)
  | wrName r p =>
    exact Budgeted.choose (c := fun s => (s.params.addr.get r).toNat)
      (f := fun a => encodeAndTransmit a p) (fun _ => ⟨rfl, fun _ => rfl⟩) fun a =>
        encodeAndTransmit_budgeted a p
  | boot => exact Budgeted.andThen fullInitialize_budgeted registerChangeHooks_budgeted

/-- Settles O29: an instruction emits the same events under every budget, up to the first one that is not
accepted. -/
theorem stuckAtFirstEventNotAccepted : Obligations.StuckAtFirstEventNotAccepted := by
  intro i s t es k hnext htrace
  rcases exec_budgeted i s with ⟨u, es', hu, -, htrace', hk⟩ | ⟨r, hr, -⟩
  · obtain rfl : t = u := Host.Outcome.next.inj (hnext.symm.trans hu)
    obtain rfl : es = es' := List.append_cancel_left (htrace.symm.trans htrace')
    exact ⟨fun h => (hk k).trans (dif_pos h), fun h => (hk k).trans (dif_neg (Nat.not_lt.2 h))⟩
  · cases hnext.symm.trans hr

/-! ### Any budget -/

theorem limited_eq_self {k : Nat} {s : State} (hbudget : s.stallAfter = some k) : limited k s = s := by
  rw [limited, ← hbudget]

theorem exec_lifted_stallAfter {i : Instr} {s u : State} (hu : exec i (lifted s) = .next u) :
    u.stallAfter = none := by
  rcases exec_budgeted i s with ⟨u', -, hu', hnone, -⟩ | ⟨r, hr, -⟩
  · rwa [Host.Outcome.next.inj (hu.symm.trans hu')]
  · cases hu.symm.trans hr

/-- An instruction that goes on with the budget lifted goes on under a budget its events fit into. -/
theorem exec_of_lifted {i : Instr} {s u : State} {es : List Event} (hu : exec i (lifted s) = .next u)
    (htrace : u.trace = s.trace ++ es) (hfits : ∀ k, s.stallAfter = some k → es.length ≤ k) :
    exec i s = .next { u with stallAfter := s.stallAfter.map (· - es.length) } := by
  have hnone := exec_lifted_stallAfter hu
  cases hbudget : s.stallAfter with
  | none =>
    rw [lifted_eq_self hbudget] at hu
    exact hu.trans (congrArg _ (lifted_eq_self hnone).symm)
  | some k =>
    obtain ⟨-, hruns⟩ := stuckAtFirstEventNotAccepted i s u es k hu htrace
    exact (congrArg (exec i) (limited_eq_self hbudget)).symm.trans (hruns (hfits k hbudget))

/-- An instruction that goes on goes on with the budget lifted, and its events fit into the budget. -/
theorem exec_lifted_of_next {i : Instr} {s t : State} (h : exec i s = .next t) :
    ∃ u es, exec i (lifted s) = .next u ∧ u.trace = s.trace ++ es ∧
      (∀ k, s.stallAfter = some k → es.length ≤ k) := by
  rcases exec_budgeted i s with ⟨u, es, hu, -, htrace, hk⟩ | ⟨r, hr, hk⟩
  · refine ⟨u, es, hu, htrace, fun k hbudget => Nat.not_lt.1 fun hlt => ?_⟩
    have hstuck := hk k
    rw [limited_eq_self hbudget, h, dif_pos hlt] at hstuck
    cases hstuck
  · cases hbudget : s.stallAfter with
    | none =>
      rw [lifted_eq_self hbudget, h] at hr
      cases hr
    | some k =>
      obtain ⟨r', hfault⟩ := hk k
      rw [limited_eq_self hbudget, h] at hfault
      cases hfault

/-- Everything a command can do when it answers a next state: its effect, with some budget spent. -/
theorem Effect.of_exec_next {i : Instr} {s t : State} (hcmd : i.isCommand = true)
    (h : exec i s = .next t) : ∃ u b, Effect i s u ∧ t = { u with stallAfter := b } := by
  obtain ⟨v, es, hv, htrace, hfits⟩ := exec_lifted_of_next h
  have heff := (Effect.of_exec hcmd rfl hv).withBudget s.stallAfter
  rw [exec_of_lifted hv htrace hfits] at h
  exact ⟨_, _, heff, (Host.Outcome.next.inj h).symm⟩

/-! ### Instructions as their expansions (R74) -/

/-- What the settings subsystem does before an instruction's commands run: ANTS stores the selection of a
successful parse (R105). -/
def storesSelection : Instr → State → State
  | .ants candidate, s => if (parseAnt candidate).1 = true then storeAntSel (parseAnt candidate).2 s else s
  | _, s => s

/-- The store before an instruction's commands writes the host's cell alone. -/
theorem exists_storesSelection_eq (i : Instr) (s : State) : ∃ sel, storesSelection i s = storeAntSel sel s := by
  cases i with
  | ants candidate =>
    by_cases hparsed : (parseAnt candidate).1 = true
    · exact ⟨_, if_pos hparsed⟩
    · exact ⟨s.antSel, if_neg hparsed⟩
  | _ => exact ⟨s.antSel, rfl⟩

@[simp] theorem storesSelection_sh (i : Instr) (s : State) : (storesSelection i s).sh = s.sh := by
  obtain ⟨sel, hstore⟩ := exists_storesSelection_eq i s
  rw [hstore, storeAntSel_sh]

@[simp] theorem storesSelection_phase (i : Instr) (s : State) : (storesSelection i s).phase = s.phase := by
  obtain ⟨sel, hstore⟩ := exists_storesSelection_eq i s
  rw [hstore, storeAntSel_phase]

@[simp] theorem storesSelection_pin (i : Instr) (s : State) : (storesSelection i s).pin = s.pin := by
  obtain ⟨sel, hstore⟩ := exists_storesSelection_eq i s
  rw [hstore, storeAntSel_pin]

@[simp] theorem storesSelection_trace (i : Instr) (s : State) : (storesSelection i s).trace = s.trace := by
  obtain ⟨sel, hstore⟩ := exists_storesSelection_eq i s
  rw [hstore, storeAntSel_trace]

@[simp] theorem storesSelection_outcomes (i : Instr) (s : State) : (storesSelection i s).outcomes = s.outcomes := by
  obtain ⟨sel, hstore⟩ := exists_storesSelection_eq i s
  rw [hstore, storeAntSel_outcomes]

@[simp] theorem storesSelection_stallAfter (i : Instr) (s : State) :
    (storesSelection i s).stallAfter = s.stallAfter := by
  obtain ⟨sel, hstore⟩ := exists_storesSelection_eq i s
  rw [hstore, storeAntSel_stallAfter]

@[simp] theorem presentAll_singleton (i : Instr) (s : State) : presentAll [i] s = exec i s := by
  rw [presentAll]
  cases exec i s <;> rfl

theorem exec_eq_presentAll (i : Instr) (s : State) :
    exec i s = presentAll (expand s.params.addr i) (storesSelection i s) := by
  cases i with
  | ants candidate => rw [expand, presentAll_singleton, exec_ant, exec_ants]; rfl
  | boot =>
    change _ = andThen (exec .init s) (presentAll [.hook])
    rw [funext (presentAll_singleton .hook)]
    rfl
  | _ => exact (presentAll_singleton _ s).symm

/-- Settles O10, constructor by constructor. -/
theorem instructionMeansItsExpansion : Obligations.InstructionMeansItsExpansion := by
  intro i s
  rw [exec_eq_presentAll]
  cases i <;> rfl

theorem isCommand_of_mem_expand (addr : AddrMap) (i : Instr) :
    ∀ c ∈ expand addr i, c.isCommand = true := by
  cases i <;> simp [expand, Instr.isCommand]

/-- Every instruction but BOOT stands for one command. -/
theorem exists_expand_eq_singleton (addr : AddrMap) {i : Instr} (hboot : i ≠ .boot) :
    ∃ c, expand addr i = [c] := by
  cases i with
  | boot => exact absurd rfl hboot
  | _ => exact ⟨_, rfl⟩

/-- Everything an instruction can do when it answers a next state: the effect of the one command it stands
for, or BOOT's two. -/
theorem exec_eq_next {i : Instr} {s t : State} (h : exec i s = .next t) :
    (∃ c u b, expand s.params.addr i = [c] ∧ Effect c (storesSelection i s) u ∧
      t = { u with stallAfter := b }) ∨
    (i = .boot ∧ ∃ u b v b', Effect .init s u ∧ Effect .hook { u with stallAfter := b } v ∧
      t = { v with stallAfter := b' }) := by
  by_cases hboot : i = .boot
  · subst hboot
    obtain ⟨w, hw, ht⟩ := andThen_eq_next.1 (show andThen (exec .init s) (exec .hook) = .next t from h)
    obtain ⟨u, b, hinit, rfl⟩ := Effect.of_exec_next rfl hw
    obtain ⟨v, b', hhook, rfl⟩ := Effect.of_exec_next rfl ht
    exact .inr ⟨rfl, u, b, v, b', hinit, hhook, rfl⟩
  · obtain ⟨c, hc⟩ := exists_expand_eq_singleton s.params.addr hboot
    have hcmd : c.isCommand = true := isCommand_of_mem_expand s.params.addr i c (by simp [hc])
    rw [exec_eq_presentAll, hc, presentAll_singleton] at h
    obtain ⟨u, b, heff, ht⟩ := Effect.of_exec_next hcmd h
    exact .inl ⟨c, u, b, hc, heff, ht⟩

/-! ### Relations that every instruction and every step keep -/

/-- `R` holds along a run when it holds along each of its moves. -/
structure Along (R : State → State → Prop) : Prop where
  refl : ∀ s, R s s
  trans : ∀ {s t u}, R s t → R t u → R s u

theorem Along.of_presentAll {R : State → State → Prop} (hR : Along R) {cs : List Instr}
    (heffect : ∀ c ∈ cs, ∀ s t b, Effect c s t → R s { t with stallAfter := b })
    (hcmd : ∀ c ∈ cs, c.isCommand = true) {s t : State} (h : presentAll cs s = .next t) : R s t := by
  induction cs generalizing s with
  | nil =>
    cases h
    exact hR.refl _
  | cons c cs ih =>
    obtain ⟨hc, hrest⟩ := List.forall_mem_cons.1 heffect
    obtain ⟨hcmdc, hcmds⟩ := List.forall_mem_cons.1 hcmd
    obtain ⟨u, hu, ht⟩ := andThen_eq_next.1 h
    obtain ⟨v, b, heff, rfl⟩ := Effect.of_exec_next hcmdc hu
    exact hR.trans (hc _ _ b heff) (ih hrest hcmds ht)

/-- What holds along the host's store and the effects of an instruction's commands holds along the
instruction. -/
theorem Along.of_exec {R : State → State → Prop} (hR : Along R) {i : Instr} {s t : State}
    (hstore : ∀ sel s, R s (storeAntSel sel s))
    (heffect : ∀ c ∈ expand s.params.addr i, ∀ u v b, Effect c u v → R u { v with stallAfter := b })
    (h : exec i s = .next t) : R s t := by
  obtain ⟨sel, hsel⟩ := exists_storesSelection_eq i s
  rw [exec_eq_presentAll, hsel] at h
  exact hR.trans (hstore sel s) (hR.of_presentAll heffect (isCommand_of_mem_expand _ i) h)

/-- What holds along every effect and along the other moves holds along every step. -/
theorem Along.of_step {R : State → State → Prop} (hR : Along R)
    (hpending : ∀ s rest, R s { s with pending := rest })
    (hstore : ∀ sel s, R s (storeAntSel sel s))
    (heffect : ∀ c s t b, Effect c s t → R s { t with stallAfter := b })
    (hreject : ∀ r s, R s (refusedWith r s)) (hpowerUp : ∀ s, R s (powerUp s)) {s t : State}
    (h : step s = .next t) : R s t := by
  obtain ⟨-, rfl⟩ | ⟨_, rest, i, -, -, hexec⟩ | ⟨_, rest, r, -, -, rfl⟩ | ⟨_, rest, -, -, rfl⟩ :=
    step_eq_next h
  · exact hR.refl _
  · exact hR.trans (hpending s rest) (hR.of_exec hstore (fun c _ => heffect c) hexec)
  · exact hR.trans (hpending s rest) (hreject r _)
  · exact hR.trans (hpending s rest) (hpowerUp _)

end Sys2Proof.Machine
end

section
/-! How commands end (60_exceptions.md) and what one step does (30_encoding.md section 2, 10_state.md
section 5): the decoded command, the refusals, the one outcome, the reset input and power-up. -/

namespace Sys2Proof.Machine

open Sys2Proof.Safety

/-! ### The step runs what the host presents -/

theorem step_of_command {s : State} {rest : List HostInput} {i : Instr}
    (hpending : s.pending = .command i :: rest) : step s = exec i { s with pending := rest } := by
  simp [step, takeInput, request, hpending]

theorem step_of_waiting {s : State} (hpending : s.pending = []) : step s = .next s := by
  simp [step, takeInput, hpending]

/-- A word the table decodes is its own low bits, and decodes to the same instruction. -/
theorem decode_of_decodeTableWord {nbits w : Nat} {i : Instr} (h : decodeTableWord nbits w = some i) :
    decode (BitVec.ofNat 48 (w % 2 ^ nbits)) = .ok i := by
  unfold decodeTableWord at h
  split_ifs at h with hfits
  obtain ⟨-, hlt⟩ := hfits
  rw [Nat.mod_eq_of_lt hlt]
  cases hdecode : decode (BitVec.ofNat 48 w) with
  | ok j => simpa [hdecode, Except.toOption] using h
  | error r => simp [hdecode, Except.toOption] at h

/-- Settles O11: each kind of input asks for what `request` says of it. -/
theorem stepRunsTheDecodedCommand : Obligations.StepRunsTheDecodedCommand :=
  ⟨fun _ _ _ _ => step_of_decode_ok, fun _ _ _ => step_of_command, fun _ => step_of_waiting,
    fun _ _ _ _ h => step_of_decode_ok rfl (decode_of_decodeTableWord h)⟩

/-- Settles O14: the reset input's next state is `powerUp`. -/
theorem resetFrame : Obligations.ResetFrame := by
  intro s t rest hpending h
  rw [step_of_reset hpending] at h
  cases h
  exact ⟨rfl, rfl, rfl, rfl, rfl, rfl⟩

/-- Settles O15: the state after power-up is written out, and `ADDR` numbers ten names. -/
theorem powerUpState : Obligations.PowerUpState := by
  refine ⟨fun p sel inputs => ⟨Shadows.get_unwritten, rfl, rfl, LastTx.at_replicate_none, rfl, rfl, rfl,
    rfl⟩, rfl, fun r => ?_⟩
  change (Config.decidedAddr.get r).toNat = _
  cases r <;> decide

/-! ### Refusals (R122) -/

/-- A refusal is recorded by a refused command alone. -/
theorem Effect.refusedAs_of_outcomes {i : Instr} {s t : State} {r : Reason} (heff : Effect i s t)
    (hrecord : t.outcomes = s.outcomes ++ [.refused r]) : refusedAs i s.phase = some r := by
  cases heff with
  | refused hrefused =>
    cases List.append_cancel_left hrecord
    exact hrefused
  | wr _ => cases List.append_cancel_left hrecord
  | init _ => cases List.append_cancel_left hrecord
  | hook _ => cases List.append_cancel_left hrecord
  | failedAnt _ => cases List.append_cancel_left hrecord
  | ant _ _ => cases List.append_cancel_left hrecord

/-- A word is refused for its operation code, or with a known one for reserved bits (R68, R69). -/
theorem reason_of_decode_error {cw : CommandWord} {r : Reason} (hdecode : decode cw = .error r) :
    (r = .rsvdOp ∧ (cw.toNat / 2 ^ 44 = 0 ∨ 4 < cw.toNat / 2 ^ 44)) ∨
      (r = .rsvdBits ∧ 1 ≤ cw.toNat / 2 ^ 44 ∧ cw.toNat / 2 ^ 44 ≤ 4) := by
  obtain ⟨hfields, -⟩ := decodeByFields
  rw [hfields] at hdecode
  split_ifs at hdecode <;> cases hdecode <;> simp <;> omega

/-- Settles O26: a recorded refusal is the phase table's, or the decoder's. -/
theorem refusedCommandChangesNothing : Obligations.RefusedCommandChangesNothing := by
  refine ⟨fun i s t r hcmd h hrecord => ?_, fun s cw rest r hpending hdecode =>
    ⟨step_of_decode_error hpending hdecode, reason_of_decode_error hdecode⟩⟩
  obtain ⟨u, b, heff, rfl⟩ := Effect.of_exec_next hcmd h
  have hrefused := heff.refusedAs_of_outcomes hrecord
  rw [exec_of_refusedAs_eq_some hrefused] at h
  exact ⟨(Host.Outcome.next.inj h).symm, hrefused⟩

/-! ### One outcome each (R13) -/

@[simp] theorem doneStatuses_done (st : Status) : doneStatuses [.done st] = [st] := rfl

theorem doneStatuses_gpio6_initTransactions (p : Params) :
    doneStatuses (gpio6 p ++ initTransactions p) = [] := by
  simp [initTransactions]
  rfl

/-- A command records one outcome: a refusal and no event, or a status and that `DONE` last. -/
theorem Effect.one_outcome {i : Instr} {s t : State} (heff : Effect i s t) :
    ∃ es o, t.trace = s.trace ++ es ∧ t.outcomes = s.outcomes ++ [o] ∧
      ((∃ r, o = .refused r ∧ es = []) ∨
        ∃ st es', o = .completed st ∧ es = es' ++ [.done st] ∧ doneStatuses es' = []) := by
  cases heff with
  | refused _ => exact ⟨[], _, (List.append_nil _).symm, rfl, .inl ⟨_, rfl, rfl⟩⟩
  | wr _ => exact ⟨_, _, List.append_assoc _ _ _, rfl, .inr ⟨_, _, rfl, rfl, doneStatuses_tx _ _⟩⟩
  | init _ => exact ⟨_, _, rfl, rfl, .inr ⟨_, _, rfl, rfl, doneStatuses_gpio6_initTransactions _⟩⟩
  | hook _ => exact ⟨_, _, rfl, rfl, .inr ⟨_, [reg], rfl, rfl, rfl⟩⟩
  | failedAnt _ => exact ⟨_, _, rfl, rfl, .inr ⟨_, [], rfl, rfl, rfl⟩⟩
  | ant _ _ =>
    refine ⟨_, _, by simp only [afterAnt, List.append_assoc]; rfl, rfl,
      .inr ⟨_, _, rfl, (List.append_assoc _ _ _).symm, ?_⟩⟩
    simp

/-- Settles O27: an instruction other than BOOT runs one command, which has one outcome. -/
theorem everyCommandHasOneOutcome : Obligations.EveryCommandHasOneOutcome := by
  intro i s t hboot h
  obtain ⟨c, u, b, -, heff, rfl⟩ | ⟨rfl, -⟩ := exec_eq_next h
  · rw [← storesSelection_trace i s, ← storesSelection_outcomes i s]
    exact heff.one_outcome
  · exact absurd rfl hboot

end Sys2Proof.Machine
end

section
/-! What every step keeps (10_state.md section 6, R31, R32): each fact is shown of one command's effect and
carried to every step by `Along`. -/

namespace Sys2Proof.Machine

open Sys2Proof.Safety

/-! ### The trace and the parameters -/

/-- Settles O39: no effect touches the parameters, and neither does the reset input. -/
theorem parametersStayFixed : Obligations.ParametersStayFixed := fun _ _ h =>
  Along.of_step (R := fun s t => t.params = s.params)
    ⟨fun _ => rfl, fun h h' => h'.trans h⟩ (fun _ _ => rfl) (fun _ _ => rfl)
    (fun _ _ _ _ heff => heff.params_eq) (fun _ _ => rfl) (fun _ => rfl) h

theorem along_traceGrows : Along fun s t => ∃ es, t.trace = s.trace ++ es where
  refl _ := ⟨[], (List.append_nil _).symm⟩
  trans := by
    rintro s t u ⟨es, hes⟩ ⟨es', hes'⟩
    exact ⟨es ++ es', by rw [hes', hes, List.append_assoc]⟩

/-- Settles O38: every effect appends, and every other move leaves the trace. -/
theorem traceIsAppendOnly : Obligations.TraceIsAppendOnly := by
  refine ⟨fun s t h => along_traceGrows.of_step ?_ ?_ ?_ ?_ ?_ h, fun s t rest hpending h => ?_⟩
  · exact fun _ _ => ⟨[], (List.append_nil _).symm⟩
  · exact fun _ _ => ⟨[], (List.append_nil _).symm⟩
  · exact fun _ _ _ _ heff => heff.exists_trace
  · exact fun _ _ => ⟨[], (List.append_nil _).symm⟩
  · exact fun _ => ⟨[], (List.append_nil _).symm⟩
  · rw [step_of_reset hpending] at h
    cases h
    rfl

/-! ### The bus stays framed (R50, R56) -/

theorem framed_initTrace (p : Params) : framed (initTrace p) = true := rfl

theorem framed_of_append {a b : List Event} (ha : framed a = true) (hb : framed b = true) :
    framed (a ++ b) = true := (framed_append b ha).trans hb

/-- A command keeps the bus framed: it emits whole transactions only. -/
theorem Effect.framed {i : Instr} {s t : State} (heff : Effect i s t)
    (hframed : framed s.trace = true) : framed t.trace = true := by
  cases heff with
  | refused _ => exact hframed
  | wr _ => exact framed_of_append (framed_of_append hframed (framed_tx _ _)) rfl
  | init _ => exact framed_of_append hframed (framed_initTrace _)
  | hook _ => exact framed_of_append hframed rfl
  | failedAnt _ => exact framed_of_append hframed rfl
  | ant _ _ =>
    exact framed_of_append (framed_of_append (framed_of_append hframed (framed_tx _ _))
      (framed_noticeOf _ _)) rfl

/-- Settles O37: only the effects of commands reach the trace. -/
theorem stepKeepsBusFramed : Obligations.StepKeepsBusFramed := fun _ _ hframed h =>
  Along.of_step (R := fun s t => framed s.trace = true → framed t.trace = true)
    ⟨fun _ => id, fun h h' => h' ∘ h⟩ (fun _ _ => id) (fun _ _ => id)
    (fun _ _ _ _ heff => heff.framed) (fun _ _ => id) (fun _ => id) h hframed

/-! ### The host's record and the trace (R13, R120) -/

/-- The record's completed statuses are the trace's `DONE` events. -/
def RecordAgrees (s : State) : Prop := doneStatuses s.trace = completedStatuses s.outcomes

theorem Effect.recordAgrees {i : Instr} {s t : State} (heff : Effect i s t) (hs : RecordAgrees s) :
    RecordAgrees t := by
  obtain ⟨es, o, htrace, houtcomes, ⟨r, rfl, rfl⟩ | ⟨st, es', rfl, rfl, hnone⟩⟩ := heff.one_outcome
  · simpa [RecordAgrees, htrace, houtcomes, completedStatuses] using hs
  · simpa [RecordAgrees, htrace, houtcomes, hnone, completedStatuses] using hs

theorem RecordAgrees.refusedWith {s : State} (hs : RecordAgrees s) (r : Reason) :
    RecordAgrees (refusedWith r s) := by
  simpa [RecordAgrees, Safety.refusedWith, completedStatuses] using hs

/-- Settles O28: a command's one outcome is a refusal and no event, or a status and its `DONE`. -/
theorem stepKeepsRecordInStepWithTrace : Obligations.StepKeepsRecordInStepWithTrace := fun _ _ hs h =>
  Along.of_step (R := fun s t => RecordAgrees s → RecordAgrees t)
    ⟨fun _ => id, fun h h' => h' ∘ h⟩ (fun _ _ => id) (fun _ _ => id)
    (fun _ _ _ _ heff => heff.recordAgrees) (fun r _ hs => hs.refusedWith r)
    (fun _ => id) h hs

/-! ### The invariants of R34 -/

/-- The invariant speaks of shadows, phase, lines and parameters, and of LASTTX in `P_RESET`. -/
theorem inv_of_frame {s t : State} (hinv : Inv s) (hsh : t.sh = s.sh) (hphase : t.phase = s.phase)
    (hpin : t.pin = s.pin) (hparams : t.params = s.params)
    (hlastTx : s.phase = .reset → t.lastTx = s.lastTx) : Inv t where
  resetIffUnwritten := by rw [ResetIffUnwritten, hphase, hsh]; exact hinv.resetIffUnwritten
  sevenWritten := by rw [SevenWritten, hphase, hsh, hparams]; exact hinv.sevenWritten
  shadowsHoldConstants := by
    rw [ShadowsHoldConstants, hphase, hsh, hparams]; exact hinv.shadowsHoldConstants
  conf1FreshInInit := by rw [Conf1FreshInInit, hphase, hsh, hparams]; exact hinv.conf1FreshInInit
  pinsFollowPhase := by rw [PinsFollowPhase, hphase, hpin]; exact hinv.pinsFollowPhase
  nothingSentInReset h a := by
    rw [hphase] at h
    rw [hlastTx h, hinv.nothingSentInReset h]

/-- The invariant of the block right after power-up (R33). -/
theorem inv_of_unwritten {s : State} (hsh : s.sh = Shadows.unwritten) (hphase : s.phase = .reset)
    (hpin : s.pin = Pins.unconfigured) (hlastTx : s.lastTx = Vector.replicate 16 none) : Inv s where
  resetIffUnwritten := ⟨fun _ r => by rw [hsh, Shadows.get_unwritten], fun _ => hphase⟩
  sevenWritten h := absurd hphase h
  shadowsHoldConstants _ h := absurd hphase h
  conf1FreshInInit h := by cases hphase.symm.trans h
  pinsFollowPhase := by rw [PinsFollowPhase, if_pos hphase, hpin]; rfl
  nothingSentInReset _ a := by rw [hlastTx, LastTx.at_replicate_none]

/-- Settles O36: power-up writes nothing and sends nothing. -/
theorem powerUpMeetsInv : Obligations.PowerUpMeetsInv :=
  ⟨fun _ _ _ => inv_of_unwritten rfl rfl rfl rfl, inv_of_unwritten rfl rfl rfl rfl⟩

/-- INIT writes all ten shadows as R6 lists them: the three without a constant stay unwritten. -/
theorem inv_afterInit {s : State} (hinv : Inv s) (hphase : s.phase = .reset) : Inv (afterInit s) := by
  have hsh : ∀ r, (afterInit s).sh.get r = initConst s.params r := fun r => by
    rw [afterInit_sh_get, hinv.resetIffUnwritten.1 hphase r, Option.or_none]
  refine ⟨⟨nofun, fun h => nomatch h .conf1⟩, fun _ r => by rw [hsh]; rfl, fun hwf _ => ?_, fun _ => rfl,
    rfl, nofun⟩
  obtain ⟨-, -, -, hw4, -⟩ := hwf
  exact ⟨fun r _ => hsh r, s.params.initConf1, rfl, rfl, .inl hw4⟩

theorem inv_afterHook {s : State} (hinv : Inv s) (hphase : s.phase = .init) : Inv (afterHook s) := by
  have hne : s.phase ≠ .reset := by simp [hphase]
  refine ⟨⟨nofun, fun h => absurd (hinv.resetIffUnwritten.2 h) hne⟩, fun _ => hinv.sevenWritten hne,
    fun hwf _ => hinv.shadowsHoldConstants hwf hne, nofun, ?_, nofun⟩
  have hpins := hinv.pinsFollowPhase
  rwa [PinsFollowPhase, if_neg hne] at hpins

theorem patternOf_cases (p : Params) (sel : Nat) :
    patternOf p sel = p.lnaGated ∨ patternOf p sel = p.lnaIn1 ∨ patternOf p sel = p.lnaIn2 := by
  unfold patternOf
  split_ifs <;> simp

theorem afterAnt_sh_get (sel : Nat) (old : Word32) (s : State) {r : RegName} (hr : r ≠ .conf1) :
    (afterAnt sel old s).sh.get r = s.sh.get r :=
  Shadows.get_set_ne s.sh (newConf1 s.params old sel) hr.symm

/-- ANT changes CONF1 alone, and there only the LNA-mode field, to a pattern (R101, R102). -/
theorem inv_afterAnt {s : State} {sel : Nat} {old : Word32} (hinv : Inv s) (hphase : s.phase = .ready)
    (hold : s.sh.conf1 = some old) : Inv (afterAnt sel old s) := by
  have hne : s.phase ≠ .reset := by simp [hphase]
  have hne' : (afterAnt sel old s).phase ≠ .reset := hne
  refine ⟨⟨fun h => absurd h hne', fun h => nomatch h .conf1⟩, fun _ r => ?_, fun hwf _ => ⟨fun r hr => ?_, ?_⟩,
    fun h => ?_, hinv.pinsFollowPhase, fun h => absurd h hne'⟩
  · by_cases hr : r = .conf1
    · subst hr
      exact ⟨nofun, nofun⟩
    · rw [afterAnt_sh_get _ _ _ hr]
      exact hinv.sevenWritten hne r
  · obtain ⟨hsix, -⟩ := hinv.shadowsHoldConstants hwf hne
    rw [afterAnt_sh_get _ _ _ hr, hsix r hr]
    rfl
  · obtain ⟨-, v, hv, hout, -⟩ := hinv.shadowsHoldConstants hwf hne
    obtain rfl : old = v := Option.some.inj (hold.symm.trans hv)
    obtain ⟨-, hw2, -⟩ := hwf
    refine ⟨newConf1 s.params old sel, rfl, (newConf1_and_not_mask hw2 old sel).trans hout, ?_⟩
    have hfield := patternOf_cases s.params sel
    rwa [← newConf1_and_mask (p := s.params) hw2 old sel] at hfield
  · cases hphase.symm.trans h

theorem Effect.inv {i : Instr} {s t : State} (heff : Effect i s t) (hinv : Inv s) : Inv t := by
  cases heff with
  | refused _ => exact inv_of_frame hinv rfl rfl rfl rfl fun _ => rfl
  | wr hphase => exact inv_of_frame hinv rfl rfl rfl rfl fun h => absurd h hphase
  | init hphase => exact inv_afterInit hinv hphase
  | hook hphase => exact inv_afterHook hinv hphase
  | failedAnt _ => exact inv_of_frame hinv rfl rfl rfl rfl fun _ => rfl
  | ant hphase hold => exact inv_afterAnt hinv hphase hold

/-- Settles O35: each command's effect keeps the invariant, and the reset input leaves the power-up
state. -/
theorem stepKeepsInv : Obligations.StepKeepsInv := by
  refine fun s t hinv h =>
    Along.of_step (R := fun s t => Inv s → Inv t) ⟨fun _ => id, fun h h' => h' ∘ h⟩ ?_ ?_ ?_ ?_ ?_ h hinv
  · exact fun _ _ hinv => inv_of_frame hinv rfl rfl rfl rfl fun _ => rfl
  · exact fun _ _ hinv => inv_of_frame hinv rfl rfl rfl rfl fun _ => rfl
  · exact fun _ _ _ _ heff hinv => inv_of_frame (heff.inv hinv) rfl rfl rfl rfl fun _ => rfl
  · exact fun _ _ hinv => inv_of_frame hinv rfl rfl rfl rfl fun _ => rfl
  · exact fun _ _ => inv_of_unwritten rfl rfl rfl rfl

end Sys2Proof.Machine
end

section
/-! Every step goes on (60_exceptions.md section 2, R22): no instruction is without meaning, and under the
invariant no shadow is read before it is written. -/

namespace Sys2Proof.Machine

open Sys2Proof.Safety

theorem exec_ne_refused (i : Instr) (s : State) (r : Refusal) : exec i s ≠ .refused r := by
  intro h
  cases hbudget : s.stallAfter with
  | none =>
    rcases exec_budgeted i s with ⟨u, -, hu, -⟩ | ⟨_, hfault, -⟩
    · rw [lifted_eq_self hbudget, h] at hu
      cases hu
    · rw [lifted_eq_self hbudget, h] at hfault
      cases hfault
  | some k =>
    rcases exec_budgeted i s with ⟨u, es, -, -, -, hk⟩ | ⟨_, -, hk⟩
    · have hanswer := hk k
      rw [limited_eq_self hbudget, h] at hanswer
      split_ifs at hanswer
    · obtain ⟨r', hfault⟩ := hk k
      rw [limited_eq_self hbudget, h] at hfault
      cases hfault

/-- A step answers a next state at once, or it is an instruction's. -/
theorem step_eq_next_or_exec (s : State) :
    (∃ t, step s = .next t) ∨ ∃ i rest, step s = exec i { s with pending := rest } := by
  unfold step takeInput
  cases s.pending with
  | nil => exact .inl ⟨_, rfl⟩
  | cons input rest =>
    cases hask : request input with
    | run i => exact .inr ⟨i, rest, by simp only [hask]⟩
    | reject r => exact .inl ⟨_, by simp only [hask]; rfl⟩
    | powerUp => exact .inl ⟨_, by simp only [hask]; rfl⟩

theorem exists_effect {i : Instr} {s : State} (hcmd : i.isCommand = true) (hinv : Inv s)
    (hacc : ServicesAccept s) : ∃ t, Effect i s t := by
  obtain ⟨hrefused, hadmitted⟩ := admissionByPhase i s hcmd hinv hacc
  cases hadmits : refusedAs i s.phase with
  | some r => exact ⟨_, .refused hadmits⟩
  | none =>
    obtain ⟨t, ht, -⟩ := hadmitted hadmits
    exact ⟨t, .of_exec hcmd hacc ht⟩

theorem presentAll_goes_on {cs : List Instr} (hcmd : ∀ c ∈ cs, c.isCommand = true) {s : State}
    (hinv : Inv s) (hacc : ServicesAccept s) : ∃ t, presentAll cs s = .next t := by
  induction cs generalizing s with
  | nil => exact ⟨s, rfl⟩
  | cons c cs ih =>
    obtain ⟨hc, hrest⟩ := List.forall_mem_cons.1 hcmd
    obtain ⟨u, heff⟩ := exists_effect hc hinv hacc
    rw [presentAll, heff.exec_eq hacc, andThen_next]
    exact ih hrest (heff.inv hinv) (heff.stallAfter_eq.trans hacc)

theorem exec_goes_on (i : Instr) {s : State} (hinv : Inv s) (hacc : ServicesAccept s) :
    ∃ t, exec i s = .next t := by
  obtain ⟨sel, hsel⟩ := exists_storesSelection_eq i s
  rw [exec_eq_presentAll, hsel]
  exact presentAll_goes_on (isCommand_of_mem_expand _ i)
    (inv_of_frame hinv rfl rfl rfl rfl fun _ => rfl) hacc

/-- Settles O30: no instruction is refused a meaning, and the invariant keeps ANT's read from faulting. -/
theorem everyStepGoesOn : Obligations.EveryStepGoesOn := by
  refine ⟨fun s r h => ?_, fun s hinv hacc => ?_⟩
  · obtain ⟨t, ht⟩ | ⟨i, rest, hexec⟩ := step_eq_next_or_exec s
    · cases h.symm.trans ht
    · exact exec_ne_refused i _ r (hexec.symm.trans h)
  · obtain hnext | ⟨i, rest, hexec⟩ := step_eq_next_or_exec s
    · exact hnext
    · rw [hexec]
      exact exec_goes_on i (inv_of_frame hinv rfl rfl rfl rfl fun _ => rfl) hacc

/-- R22: under the invariant an instruction can only be stuck. -/
theorem exec_ne_unwrittenShadow (i : Instr) {s : State} (hinv : Inv s) (r : RegName) :
    exec i s ≠ .fault (.unwrittenShadow r) := by
  intro h
  have hinv' : Inv (lifted s) := inv_of_frame hinv rfl rfl rfl rfl fun _ => rfl
  obtain ⟨t, ht⟩ := exec_goes_on i hinv' rfl
  rcases exec_budgeted i s with ⟨u, es, -, -, -, hk⟩ | ⟨r', hfault, -⟩
  · cases hbudget : s.stallAfter with
    | none =>
      rw [lifted_eq_self hbudget, h] at ht
      cases ht
    | some k =>
      have hanswer := hk k
      rw [limited_eq_self hbudget, h] at hanswer
      split_ifs at hanswer
      cases hanswer
  · cases ht.symm.trans hfault

theorem step_ne_unwrittenShadow {s : State} (hinv : Inv s) (r : RegName) :
    step s ≠ .fault (.unwrittenShadow r) := by
  intro h
  obtain ⟨t, ht⟩ | ⟨i, rest, hexec⟩ := step_eq_next_or_exec s
  · cases h.symm.trans ht
  · exact exec_ne_unwrittenShadow i (s := { s with pending := rest })
      (inv_of_frame hinv rfl rfl rfl rfl fun _ => rfl) r (hexec.symm.trans h)

end Sys2Proof.Machine
end

section
/-! Frames (R20 to R25): what each instruction leaves unchanged, and which instruction may change a shadow,
the lines or the LNA-mode field. -/

namespace Sys2Proof.Machine

open Sys2Proof.Safety

/-! ### WR -/

theorem Effect.wr_frame {a p : Nat} {s t : State} (heff : Effect (.wr a p) s t) :
    t.sh = s.sh ∧ t.phase = s.phase ∧ t.pin = s.pin ∧ t.params = s.params ∧ t.pending = s.pending ∧
      t.antSel = s.antSel ∧ ∀ b, b ≠ BitVec.ofNat 4 a → t.lastTx.at b = s.lastTx.at b := by
  cases heff with
  | refused _ => exact ⟨rfl, rfl, rfl, rfl, rfl, rfl, fun _ _ => rfl⟩
  | wr _ => exact ⟨rfl, rfl, rfl, rfl, rfl, rfl, fun b hb => LastTx.at_put_ne s.lastTx _ hb.symm⟩

/-- Settles O31: both forms are one WR, and the address of a name is a number below 16. -/
theorem writeFrame : Obligations.WriteFrame := by
  intro i s t target h htarget
  cases i with
  | wr a p =>
    obtain ⟨u, b, heff, rfl⟩ := Effect.of_exec_next rfl h
    subst htarget
    exact heff.wr_frame
  | wrName r p =>
    have hwr : exec (.wr (s.params.addr.get r).toNat p) s = .next t := h
    obtain ⟨u, b, heff, rfl⟩ := Effect.of_exec_next rfl hwr
    have hframe := heff.wr_frame
    rw [BitVec.ofNat_toNat, BitVec.setWidth_eq, ← htarget] at hframe
    exact hframe
  | _ => exact htarget.elim

/-! ### INIT, HOOK, BOOT -/

/-- What INIT and HOOK leave alone. -/
def StartupKeeps (s t : State) : Prop :=
  t.sh.strm = s.sh.strm ∧ t.sh.test1 = s.sh.test1 ∧ t.sh.test2 = s.sh.test2 ∧
    t.params = s.params ∧ t.pending = s.pending ∧ t.antSel = s.antSel ∧
    ∀ a, (∀ r ∈ initOrder, s.params.addr.get r ≠ a) → t.lastTx.at a = s.lastTx.at a

theorem along_startupKeeps : Along StartupKeeps where
  refl _ := ⟨rfl, rfl, rfl, rfl, rfl, rfl, fun _ _ => rfl⟩
  trans := by
    rintro s t u ⟨hstrm, htest1, htest2, hparams, hpending, hsel, htx⟩
      ⟨hstrm', htest1', htest2', hparams', hpending', hsel', htx'⟩
    exact ⟨hstrm'.trans hstrm, htest1'.trans htest1, htest2'.trans htest2, hparams'.trans hparams,
      hpending'.trans hpending, hsel'.trans hsel,
      fun a ha => (htx' a (by rwa [hparams])).trans (htx a ha)⟩

theorem Effect.startupKeeps {i : Instr} {s t : State} (hi : i = .init ∨ i = .hook)
    (heff : Effect i s t) (b : Option Nat) : StartupKeeps s { t with stallAfter := b } := by
  cases heff with
  | refused _ => exact ⟨rfl, rfl, rfl, rfl, rfl, rfl, fun _ _ => rfl⟩
  | init _ => exact ⟨rfl, rfl, rfl, rfl, rfl, rfl, fun a ha =>
      LastTx.at_putAll_of_ne (l := initTable s.params) _ ha⟩
  | hook _ => exact ⟨rfl, rfl, rfl, rfl, rfl, rfl, fun _ _ => rfl⟩
  | wr _ => simp at hi
  | failedAnt _ => simp at hi
  | ant _ _ => simp at hi

/-- Settles O32: INIT stores and sends to its seven registers, and HOOK to none. -/
theorem startupFrame : Obligations.StartupFrame := by
  intro i s t hi h
  have hcmds : ∀ c ∈ expand s.params.addr i, c = .init ∨ c = .hook := by
    rcases hi with rfl | rfl <;> simp [expand]
  have hplain : storesSelection i s = s := by
    rcases hi with rfl | rfl <;> rfl
  rw [exec_eq_presentAll, hplain] at h
  exact along_startupKeeps.of_presentAll (fun c hc _ _ b heff => heff.startupKeeps (hcmds c hc) b)
    (isCommand_of_mem_expand _ i) h

theorem Effect.hook_frame {s t : State} (heff : Effect .hook s t) :
    t.sh = s.sh ∧ t.pin = s.pin ∧ t.lastTx = s.lastTx ∧ t.params = s.params ∧
      t.pending = s.pending ∧ t.antSel = s.antSel ∧
      ∃ es, t.trace = s.trace ++ es ∧ (es = [] ∨ es = [reg, .done .success]) := by
  cases heff with
  | refused _ => exact ⟨rfl, rfl, rfl, rfl, rfl, rfl, [], (List.append_nil _).symm, .inl rfl⟩
  | hook _ => exact ⟨rfl, rfl, rfl, rfl, rfl, rfl, _, rfl, .inr rfl⟩

/-- Settles O33: HOOK is refused, or registers the setting. -/
theorem hookFrame : Obligations.HookFrame := by
  intro s t h
  obtain ⟨u, b, heff, rfl⟩ := Effect.of_exec_next rfl h
  exact heff.hook_frame

/-! ### ANT, ANTS -/

theorem Effect.ant_frame {ok : Bool} {sel : Nat} {s t : State} (heff : Effect (.ant ok sel) s t) :
    t.antSel = s.antSel ∧ (∀ r, r ≠ .conf1 → t.sh.get r = s.sh.get r) ∧ t.phase = s.phase ∧
      t.pin = s.pin ∧ t.params = s.params ∧ t.pending = s.pending ∧
      ∀ a, a ≠ s.params.addr.conf1 → t.lastTx.at a = s.lastTx.at a := by
  cases heff with
  | refused _ => exact ⟨rfl, fun _ _ => rfl, rfl, rfl, rfl, rfl, fun _ _ => rfl⟩
  | failedAnt _ => exact ⟨rfl, fun _ _ => rfl, rfl, rfl, rfl, rfl, fun _ _ => rfl⟩
  | ant _ _ =>
    exact ⟨rfl, fun _ => afterAnt_sh_get _ _ _, rfl, rfl, rfl, rfl,
      fun a ha => LastTx.at_put_ne s.lastTx _ ha.symm⟩

/-- Settles O34: ANTS is ANT after the host's store, which writes the cell alone. -/
theorem antennaFrame : Obligations.AntennaFrame := by
  intro i s t cell h hcell
  cases i with
  | ant ok sel =>
    obtain ⟨u, b, heff, rfl⟩ := Effect.of_exec_next rfl h
    subst hcell
    exact heff.ant_frame
  | ants candidate =>
    rw [exec_ants, ← exec_ant] at h
    obtain ⟨u, b, heff, rfl⟩ := Effect.of_exec_next rfl h
    have hframe := heff.ant_frame
    subst hcell
    split_ifs at hframe ⊢ <;> exact hframe
  | _ => exact hcell.elim

/-! ### Who writes what -/

/-- A command that changes a shadow is INIT in `P_RESET` or a successful ANT in `P_READY` (R22). -/
theorem Effect.of_sh_ne {i : Instr} {s t : State} {r : RegName} (heff : Effect i s t)
    (hne : t.sh.get r ≠ s.sh.get r) :
    (i = .init ∧ s.phase = .reset ∧ r ∈ initOrder) ∨
      (r = .conf1 ∧ s.phase = .ready ∧ ∃ sel, i = .ant true sel) := by
  cases heff with
  | refused _ => exact absurd rfl hne
  | wr _ => exact absurd rfl hne
  | init hphase =>
    refine .inl ⟨rfl, hphase, ?_⟩
    cases hconst : initConst s.params r with
    | none => rw [afterInit_sh_get, hconst, Option.none_or] at hne; exact absurd rfl hne
    | some v =>
      rw [← initTable_map_fst s.params]
      exact List.mem_map_of_mem (f := Prod.fst) ((mem_initTable_iff _ _ _).2 hconst)
  | hook _ => exact absurd rfl hne
  | failedAnt _ => exact absurd rfl hne
  | ant hphase _ =>
    exact .inr ⟨by_contra fun hr => hne (afterAnt_sh_get _ _ _ hr), hphase, _, rfl⟩

theorem eq_init_of_expand {addr : AddrMap} {i : Instr} (h : expand addr i = [.init]) : i = .init := by
  cases i <;> simp_all [expand]

/-- Only ANT itself and ANTS with a registered name stand for a successful ANT. -/
theorem eq_ant_of_expand {addr : AddrMap} {i : Instr} {sel : Nat} (h : expand addr i = [.ant true sel]) :
    (∃ sel, i = .ant true sel) ∨ ∃ c, i = .ants c ∧ (parseAnt c).1 = true := by
  cases i <;> simp_all [expand]

/-- Settles O40: an instruction writes shadows through one command's effect, BOOT through its INIT's. -/
theorem shadowWritersAndReaders : Obligations.ShadowWritersAndReaders := by
  refine ⟨fun i s t r h hne => ?_, fun s r hinv => step_ne_unwrittenShadow hinv r⟩
  obtain ⟨c, u, b, hc, heff, rfl⟩ | ⟨rfl, u, b, v, b', hinit, hhook, rfl⟩ := exec_eq_next h
  · rw [← storesSelection_sh i s] at hne
    rw [← storesSelection_phase i s]
    obtain ⟨rfl, hphase, hr⟩ | ⟨hr, hphase, sel, rfl⟩ := heff.of_sh_ne hne
    · exact .inl ⟨.inl (eq_init_of_expand hc), hphase, hr⟩
    · exact .inr ⟨hr, hphase, eq_ant_of_expand hc⟩
  · obtain ⟨hsh, -⟩ := hhook.hook_frame
    change v.sh.get r ≠ _ at hne
    rw [hsh] at hne
    obtain ⟨-, hphase, hr⟩ | ⟨-, -, sel, hant⟩ := hinit.of_sh_ne hne
    · exact .inl ⟨.inr rfl, hphase, hr⟩
    · cases hant

theorem Effect.of_pin_ne {i : Instr} {s t : State} (heff : Effect i s t) (hne : t.pin ≠ s.pin) :
    i = .init ∧ s.phase = .reset ∧ t.pin = ⟨.low, .high, .high⟩ := by
  cases heff with
  | init hphase => exact ⟨rfl, hphase, rfl⟩
  | _ => exact absurd rfl hne

/-- Settles O41: of the effects only INIT's writes the lines. -/
theorem onlyInitMovesTheLines : Obligations.OnlyInitMovesTheLines := by
  intro i s t h hne
  obtain ⟨c, u, b, hc, heff, rfl⟩ | ⟨rfl, u, b, v, b', hinit, hhook, rfl⟩ := exec_eq_next h
  · rw [← storesSelection_pin i s] at hne
    rw [← storesSelection_phase i s]
    obtain ⟨rfl, hphase, hpin⟩ := heff.of_pin_ne hne
    exact ⟨.inl (eq_init_of_expand hc), hphase, hpin⟩
  · obtain ⟨-, hpin, -⟩ := hhook.hook_frame
    change v.pin ≠ _ at hne
    rw [hpin] at hne
    obtain ⟨-, hphase, hpin'⟩ := hinit.of_pin_ne hne
    exact ⟨.inr rfl, hphase, hpin.trans hpin'⟩

/-! ### The LNA-mode field (R101) -/

/-- Outside `P_RESET` a run stays outside it and changes the shadows in the LNA-mode field alone. -/
def KeepsOutsideMask (s t : State) : Prop :=
  s.params.W2 → s.phase ≠ .reset → t.params = s.params ∧ t.phase ≠ .reset ∧
    (∀ r, r ≠ .conf1 → t.sh.get r = s.sh.get r) ∧
    (t.sh.conf1.map fun v => v &&& ~~~s.params.lnaMask) =
      s.sh.conf1.map fun v => v &&& ~~~s.params.lnaMask

theorem along_keepsOutsideMask : Along KeepsOutsideMask where
  refl _ _ hphase := ⟨rfl, hphase, fun _ _ => rfl, rfl⟩
  trans := by
    intro s t u hst htu hw2 hphase
    obtain ⟨hparams, hphase', hsh, hconf1⟩ := hst hw2 hphase
    obtain ⟨hparams', hphase'', hsh', hconf1'⟩ := htu (by rwa [hparams]) hphase'
    rw [hparams] at hconf1'
    exact ⟨hparams'.trans hparams, hphase'', fun r hr => (hsh' r hr).trans (hsh r hr),
      hconf1'.trans hconf1⟩

theorem Effect.keepsOutsideMask {i : Instr} {s t : State} (heff : Effect i s t) (b : Option Nat) :
    KeepsOutsideMask s { t with stallAfter := b } := by
  intro hw2 hphase
  cases heff with
  | init hreset => exact absurd hreset hphase
  | hook _ => exact ⟨rfl, nofun, fun _ _ => rfl, rfl⟩
  | ant _ hold =>
    refine ⟨rfl, hphase, fun _ => afterAnt_sh_get _ _ _, ?_⟩
    rw [hold]
    exact congrArg some (newConf1_and_not_mask hw2 _ _)
  | _ => exact ⟨rfl, hphase, fun _ _ => rfl, rfl⟩

/-- Settles O42: outside `P_RESET` only ANT writes a shadow, and its pattern lies inside the mask. -/
theorem onlyTheLnaFieldChangesAfterInit : Obligations.OnlyTheLnaFieldChangesAfterInit := by
  rintro i s t ⟨-, hw2, -⟩ hphase h
  have hkeeps : KeepsOutsideMask s t := along_keepsOutsideMask.of_exec
    (fun _ _ _ hphase => ⟨rfl, hphase, fun _ _ => rfl, rfl⟩)
    (fun _ _ _ _ b heff => heff.keepsOutsideMask b) h
  obtain ⟨-, -, hsh, hconf1⟩ := hkeeps hw2 hphase
  exact ⟨hsh, hconf1⟩

end Sys2Proof.Machine
end

section
/-! Shadow consistency (10_state.md section 6, I4): what was last sent to a register's address is its shadow,
until a raw write to that address. -/

namespace Sys2Proof.Machine

open Sys2Proof.Safety

/-- R7 (W1): two registers have two addresses. -/
theorem addr_get_injective {p : Params} (hw1 : p.W1) : Function.Injective p.addr.get := by
  intro r r' h
  have hmem : ∀ r : RegName, r ∈ RegName.all := fun r => by cases r <;> decide
  exact List.inj_on_of_nodup_map hw1 (hmem r) (hmem r') h

/-- INIT sends what it stores, and nothing to the other three registers. -/
theorem consistent_afterInit {r : RegName} {s : State} (hw1 : s.params.W1) (hs : Consistent r s) :
    Consistent r (afterInit s) := by
  intro v hv
  rw [afterInit_sh_get] at hv
  rw [afterInit_lastTx]
  cases hconst : initConst s.params r with
  | some w =>
    obtain rfl : w = v := by simpa [hconst] using hv
    exact LastTx.at_putAll_of_mem _ (initTable_addresses_nodup hw1) ((mem_initTable_iff _ _ _).2 hconst)
  | none =>
    have hnot : ∀ r' ∈ (initTable s.params).map Prod.fst, s.params.addr.get r' ≠ s.params.addr.get r := by
      intro r' hr' heq
      rw [addr_get_injective hw1 heq] at hr'
      obtain ⟨⟨_, w⟩, hmem, rfl⟩ := List.mem_map.1 hr'
      cases hconst.symm.trans ((mem_initTable_iff _ _ _).1 hmem)
    rw [hconst, Option.none_or] at hv
    exact (LastTx.at_putAll_of_ne _ hnot).trans (hs v hv)

/-- ANT sends the CONF1 shadow it stores, and touches no other register's address. -/
theorem consistent_afterAnt {r : RegName} {sel : Nat} {old : Word32} {s : State} (hw1 : s.params.W1)
    (hs : Consistent r s) : Consistent r (afterAnt sel old s) := by
  intro v hv
  by_cases hr : r = .conf1
  · subst hr
    cases hv
    exact LastTx.at_put_self s.lastTx _ _
  · have haddr : s.params.addr.conf1 ≠ s.params.addr.get r := fun h =>
      hr (addr_get_injective hw1 (a₁ := .conf1) h).symm
    rw [afterAnt_sh_get _ _ _ hr] at hv
    exact (LastTx.at_put_ne s.lastTx _ haddr).trans (hs v hv)

/-- Under the parameters `p` a run keeps the shadow of `r` consistent. -/
def KeepsConsistent (p : Params) (r : RegName) (s t : State) : Prop :=
  s.params = p → Consistent r s → t.params = p ∧ Consistent r t

theorem along_keepsConsistent (p : Params) (r : RegName) : Along (KeepsConsistent p r) where
  refl _ hp hs := ⟨hp, hs⟩
  trans := by
    intro s t u hst htu hp hs
    obtain ⟨hp', ht⟩ := hst hp hs
    exact htu hp' ht

theorem Effect.keepsConsistent {p : Params} {r : RegName} {i : Instr} {s t : State} (hw1 : p.W1)
    (hraw : ¬ writesRaw p.addr r i) (heff : Effect i s t) (b : Option Nat) :
    KeepsConsistent p r s { t with stallAfter := b } := by
  rintro rfl hs
  refine ⟨heff.params_eq, ?_⟩
  cases heff with
  | wr _ => exact fun v hv => (LastTx.at_put_ne s.lastTx _ hraw).trans (hs v hv)
  | init _ => exact consistent_afterInit hw1 hs
  | ant _ _ => exact consistent_afterAnt hw1 hs
  | _ => exact hs

/-- A named write is raw where its expansion is. -/
theorem not_writesRaw_expand {addr : AddrMap} {r : RegName} {i : Instr} (h : ¬ writesRaw addr r i) :
    ∀ c ∈ expand addr i, ¬ writesRaw addr r c := by
  cases i <;> simp_all [expand, writesRaw]

/-- Settles O43: each command that is no raw write to `ADDR[r]` sends to it what it stores, or leaves
both. -/
theorem shadowStaysConsistentWithWire : Obligations.ShadowStaysConsistentWithWire := by
  intro r i s t hw1 hs hraw h
  have hkeeps : KeepsConsistent s.params r s t := (along_keepsConsistent s.params r).of_exec
    (fun _ _ hp hs => ⟨hp, hs⟩)
    (fun c hc _ _ b heff => heff.keepsConsistent hw1 (not_writesRaw_expand hraw c hc) b) h
  exact (hkeeps rfl hs).2

end Sys2Proof.Machine
end

section
/-! Programs (42_antenna.md section 3, 70_reset_and_hazards.md sections 2 and 3): the named and string forms,
BOOT, and sequences of antenna changes, with every service accepting. -/

namespace Sys2Proof.Machine

open Sys2Proof.Safety

/-! ### The named write, ANTS and BOOT -/

/-- Settles O17: the named form is the handler's call with `ADDR[<name>]`. -/
theorem wrNameSendsOneWord : Obligations.WrNameSendsOneWord := by
  refine ⟨fun r p s hphase hacc => ?_, fun r p s hphase => ?_⟩
  · rw [exec_wrName, encodeAndTransmit_admitted hphase hacc]
  · rw [exec_wrName, encodeAndTransmit_refused hphase]

theorem parseAnt_registered {c : String} {sel : Nat}
    (hc : (c, sel) ∈ [("Auto", 0), ("Patch", 1), ("External", 2)]) : parseAnt c = (true, sel) := by
  simp only [List.mem_cons, Prod.mk.injEq, List.not_mem_nil, or_false] at hc
  obtain ⟨rfl, rfl⟩ | ⟨rfl, rfl⟩ | ⟨rfl, rfl⟩ := hc <;> decide

theorem parseAnt_unregistered {c : String} (hauto : c ≠ "Auto") (hpatch : c ≠ "Patch")
    (hexternal : c ≠ "External") : parseAnt c = (false, 0) :=
  (if_neg hauto).trans ((if_neg hpatch).trans (if_neg hexternal))

theorem exec_ants_of_parsed {c : String} {sel : Nat} (hparse : parseAnt c = (true, sel)) (s : State) :
    exec (.ants c) s = changeAntennaMode true sel { s with antSel := sel } := by
  rw [exec_ants, hparse]
  rfl

theorem exec_ants_of_unparsed {c : String} {sel : Nat} (hparse : parseAnt c = (false, sel)) (s : State) :
    exec (.ants c) s = changeAntennaMode false sel s := by
  rw [exec_ants, hparse]
  rfl

theorem exec_ants_succeeded {c : String} {sel : Nat} {s : State} {old : Word32}
    (hparse : parseAnt c = (true, sel)) (hphase : s.phase = .ready) (hacc : ServicesAccept s)
    (hold : s.sh.conf1 = some old) : exec (.ants c) s = .next (afterAnt sel old { s with antSel := sel }) :=
  (exec_ants_of_parsed hparse s).trans (changeAntennaMode_succeeded sel hphase hacc hold)

/-- Settles O22: the parse decides what is stored and which call the handler gets. -/
theorem antsParsesAndCallsTheHandler : Obligations.AntsParsesAndCallsTheHandler := by
  refine ⟨fun c sel hc => ?_, fun c hauto hpatch hexternal => ?_⟩
  · have hparse := parseAnt_registered hc
    refine ⟨hparse, fun s hphase => ?_, fun old s => exec_ants_succeeded hparse⟩
    exact (exec_ants_of_parsed hparse s).trans (changeAntennaMode_refused true sel hphase)
  · have hparse := parseAnt_unregistered hauto hpatch hexternal
    refine ⟨hparse, fun s hphase => ?_, fun s hphase hacc => ?_⟩
    · exact (exec_ants_of_unparsed hparse s).trans (changeAntennaMode_refused false 0 hphase)
    · exact (exec_ants_of_unparsed hparse s).trans (changeAntennaMode_failed 0 hphase hacc)

theorem bootRuns_from_reset {s : State} (hphase : s.phase = .reset) (hacc : ServicesAccept s) :
    presentAll [.init, .hook] s = .next (afterHook (afterInit s)) := by
  rw [presentAll, exec_init, fullInitialize_admitted hphase hacc, andThen_next, presentAll_singleton,
    exec_hook, registerChangeHooks_admitted rfl (by exact hacc)]

/-- Settles O23: BOOT is INIT, then HOOK in the phase INIT leaves. -/
theorem bootRunsInitThenHook : Obligations.BootRunsInitThenHook := by
  refine ⟨fun s hphase hacc => ?_, fun s hphase hacc => ?_, fun s hphase => ?_⟩
  · rw [exec_eq_presentAll]
    exact bootRuns_from_reset hphase hacc
  · rw [exec_boot, fullInitialize_refused (by simp [hphase]), andThen_next,
      registerChangeHooks_admitted (by exact hphase) (by exact hacc)]
  · rw [exec_boot, fullInitialize_refused (by simp [hphase]), andThen_next,
      registerChangeHooks_refused (by simp [refusedWith, hphase])]

/-- Settles O24: from power-up INIT writes and sends its table, and HOOK registers the setting. -/
theorem stateAfterBoot : Obligations.StateAfterBoot := by
  intro p sel inputs hwf
  obtain ⟨hw1, -, -, hw4, -⟩ := hwf
  have hsh : ∀ r, (afterHook (afterInit (State.powerOn p sel inputs))).sh.get r = initConst p r := by
    intro r
    exact (afterInit_sh_get _ r).trans (by simp)
  refine ⟨_, bootRuns_from_reset rfl rfl, rfl, hsh, congrArg some hw4, rfl, rfl, rfl, rfl,
    fun r v hv => ?_⟩
  rw [hsh] at hv
  exact LastTx.at_putAll_of_mem _ (initTable_addresses_nodup hw1) ((mem_initTable_iff p r v).2 hv)

/-! ### One antenna change after another -/

/-- A change overwrites what an earlier one put into the field. -/
theorem newConf1_eq_of_and_not_mask {p : Params} {old old' : Word32}
    (h : old &&& ~~~p.lnaMask = old' &&& ~~~p.lnaMask) (sel : Nat) :
    newConf1 p old sel = newConf1 p old' sel := by
  rw [newConf1, newConf1, h]

/-- The same change twice is the change once, whether or not the pattern lies inside the mask. -/
theorem newConf1_idem (p : Params) (old : Word32) (sel : Nat) :
    newConf1 p (newConf1 p old sel) sel = newConf1 p old sel := by
  ext i hi
  simp only [newConf1, BitVec.getElem_or, BitVec.getElem_and, BitVec.getElem_not]
  cases old[i] <;> cases p.lnaMask[i] <;> cases (patternOf p sel)[i] <;> rfl

theorem LastTx.put_put (t : LastTx) (a : Address) (v w : Payload) : (t.put a v).put a w = t.put a w := by
  simp [LastTx.put]

theorem exec_ant_true {sel : Nat} {old : Word32} {s : State} (hphase : s.phase = .ready)
    (hacc : ServicesAccept s) (hold : s.sh.conf1 = some old) :
    exec (.ant true sel) s = .next (afterAnt sel old s) := changeAntennaMode_succeeded sel hphase hacc hold

/-- The events of a successful ANT. -/
def antEvents (p : Params) (old : Word32) (sel : Nat) : List Event :=
  tx p (wireNumber p.addr.conf1.toNat (newConf1 p old sel).toNat) ++ noticeOf p sel ++ [.done .success]

theorem afterAnt_trace (sel : Nat) (old : Word32) (s : State) :
    (afterAnt sel old s).trace = s.trace ++ antEvents s.params old sel := by
  simp [afterAnt, antEvents]

/-- Settles O46: the second change finds the pattern in place. -/
theorem repeatedChangeSendsTheSameWord : Obligations.RepeatedChangeSendsTheSameWord := by
  intro sel s v hacc hphase hv
  have hidem := newConf1_idem s.params v sel
  refine ⟨_, _, antEvents s.params v sel, exec_ant_true hphase hacc hv,
    exec_ant_true (old := newConf1 s.params v sel) (by exact hphase) (by exact hacc) rfl,
    afterAnt_trace _ _ _, ?_, ?_, ?_, ?_⟩
  · rw [afterAnt_trace]
    change _ ++ antEvents s.params _ sel = _
    rw [antEvents, hidem, antEvents]
  · simp [antEvents]
  · change { s.sh with conf1 := some (newConf1 s.params (newConf1 s.params v sel) sel) } = _
    rw [hidem]
    rfl
  · change (LastTx.put _ _ _).put s.params.addr.conf1 _ = _
    rw [LastTx.put_put]
    change LastTx.put _ _ ((newConf1 s.params (newConf1 s.params v sel) sel).setWidth 28) = _
    rw [hidem]
    rfl

/-- A successful ANT under any budget. -/
theorem exec_ant_true_eq_next {sel : Nat} {old : Word32} {s t : State} (hphase : s.phase = .ready)
    (hold : s.sh.conf1 = some old) (h : exec (.ant true sel) s = .next t) :
    ∃ b, t = { afterAnt sel old s with stallAfter := b } := by
  obtain ⟨u, b, heff, rfl⟩ := Effect.of_exec_next rfl h
  cases heff with
  | refused hrefused => simp [refusedAs_ant, hphase] at hrefused
  | ant _ hold' =>
    cases hold.symm.trans hold'
    exact ⟨b, rfl⟩

/-- Settles O48: the new CONF1 shadow, and with it the word sent, is made from the bits outside the mask. -/
theorem antSeesOnlyBitsOutsideTheMask : Obligations.AntSeesOnlyBitsOutsideTheMask := by
  intro sel s s' t t' v v' hparams hv hv' hagree hphase hready h h'
  obtain ⟨b, rfl⟩ := exec_ant_true_eq_next hready hv h
  obtain ⟨b', rfl⟩ := exec_ant_true_eq_next (hphase ▸ hready) hv' h'
  have hnew : newConf1 s'.params v' sel = newConf1 s.params v sel := by
    rw [← hparams]
    exact newConf1_eq_of_and_not_mask hagree.symm sel
  refine ⟨congrArg some hnew.symm, antEvents s.params v sel, afterAnt_trace _ _ _, ?_⟩
  rw [afterAnt_trace, antEvents, hnew, ← hparams, antEvents]

theorem afterWr_named_lastTx (r : RegName) (p : Nat) (s : State) :
    (afterWr (s.params.addr.get r).toNat p s).lastTx =
      s.lastTx.put (s.params.addr.get r) (BitVec.ofNat 28 p) := by
  rw [afterWr, BitVec.ofNat_toNat, BitVec.setWidth_eq]

/-- Settles O49: ANT takes CONF1 from the shadow, which the raw write does not touch, and sends over it. -/
theorem antUndoesRawWriteToConf1 : Obligations.AntUndoesRawWriteToConf1 := by
  intro p sel s v hacc hphase hv
  have hne : s.phase ≠ .reset := by simp [hphase]
  have hlastTx := afterWr_named_lastTx .conf1 p s
  refine ⟨_, _, _, encodeAndTransmit_admitted (s := s) hne hacc, rfl, ?_,
    exec_ant_true (old := v) (by exact hphase) (by exact hacc) (by exact hv),
    exec_ant_true hphase hacc hv, rfl, ?_⟩
  · rw [hlastTx]
    exact LastTx.at_put_self _ _ _
  · rw [afterAnt, hlastTx]
    exact LastTx.put_put s.lastTx _ _ _

/-- R7 (W2, W4): the Auto mode over INIT's constant is INIT's constant, whatever mode came between. -/
theorem newConf1_auto_initConf1 {p : Params} (hw2 : p.W2) (hw4 : p.W4) (sel : Nat) :
    newConf1 p (newConf1 p p.initConf1 sel) 0 = p.initConf1 := by
  rw [newConf1_eq_of_and_not_mask (newConf1_and_not_mask hw2 p.initConf1 sel)]
  change (p.initConf1 &&& ~~~p.lnaMask) ||| p.lnaGated = p.initConf1
  rw [← hw4]
  ext i hi
  simp only [BitVec.getElem_or, BitVec.getElem_and, BitVec.getElem_not]
  cases p.initConf1[i] <;> cases p.lnaMask[i] <;> rfl

theorem LastTx.put_eq_self {t : LastTx} {a : Address} {v : Payload} (h : t.at a = some v) :
    t.put a v = t := by
  rw [LastTx.put, ← h]
  exact Vector.set_getElem_self _

/-- Two registered names one after the other: the second mode stands, over the first one's bits outside the
mask. -/
theorem presentAll_two_ants {c c' : String} {sel sel' : Nat} {s : State} {old : Word32}
    (hparse : parseAnt c = (true, sel)) (hparse' : parseAnt c' = (true, sel')) (hphase : s.phase = .ready)
    (hacc : ServicesAccept s) (hold : s.sh.conf1 = some old) :
    ∃ u, presentAll [.ants c, .ants c'] s = .next u ∧
      u.sh = { s.sh with conf1 := some (newConf1 s.params (newConf1 s.params old sel) sel') } ∧
      u.lastTx = s.lastTx.put s.params.addr.conf1
        ((newConf1 s.params (newConf1 s.params old sel) sel').setWidth 28) := by
  refine ⟨afterAnt sel' (newConf1 s.params old sel)
    { afterAnt sel old { s with antSel := sel } with antSel := sel' }, ?_, rfl, LastTx.put_put _ _ _ _⟩
  rw [presentAll, exec_ants_succeeded hparse hphase hacc hold, andThen_next, presentAll_singleton]
  exact exec_ants_succeeded (s := afterAnt sel old { s with antSel := sel }) hparse' hphase hacc rfl

/-- Settles O47: External and Auto each send over CONF1's address, and Auto's word is INIT's. -/
theorem roundTripRestoresInitConf1 : Obligations.RoundTripRestoresInitConf1 := by
  rintro s ⟨hw1, hw2, -, hw4, -⟩ hphase hacc
  have hsent : (afterInit s).lastTx.at s.params.addr.conf1 = some (s.params.initConf1.setWidth 28) :=
    LastTx.at_putAll_of_mem (r := .conf1) _ (initTable_addresses_nodup hw1)
      ((mem_initTable_iff _ _ _).2 rfl)
  obtain ⟨u, hu, hsh, hlastTx⟩ := presentAll_two_ants (s := afterHook (afterInit s))
    (old := s.params.initConf1) (parseAnt_registered (c := "External") (sel := 2) (by simp))
    (parseAnt_registered (c := "Auto") (sel := 0) (by simp)) rfl hacc rfl
  have hauto : newConf1 (afterHook (afterInit s)).params
      (newConf1 (afterHook (afterInit s)).params s.params.initConf1 2) 0 = s.params.initConf1 :=
    newConf1_auto_initConf1 hw2 hw4 2
  rw [hauto] at hsh hlastTx
  exact ⟨_, u, bootRuns_from_reset hphase hacc, hu, rfl, hsh, hlastTx.trans (LastTx.put_eq_self hsent)⟩

/-! ### Any sequence of antenna changes -/

/-- The CONF1 shadow after one ANT with these operands. -/
def conf1After (p : Params) (v : Word32) (c : Bool × Nat) : Word32 := if c.1 then newConf1 p v c.2 else v

theorem presentAll_ants (cmds : List (Bool × Nat)) {s : State} {v : Word32} (hphase : s.phase = .ready)
    (hacc : ServicesAccept s) (hv : s.sh.conf1 = some v) :
    ∃ t, presentAll (cmds.map fun c => .ant c.1 c.2) s = .next t ∧
      t.sh.conf1 = some (cmds.foldl (conf1After s.params) v) ∧
      transactions t.trace = transactions s.trace + (cmds.filter fun c => c.1).length := by
  induction cmds generalizing s v with
  | nil => exact ⟨s, rfl, hv, rfl⟩
  | cons c cmds ih =>
    obtain ⟨ok, sel⟩ := c
    cases ok with
    | false =>
      obtain ⟨t, ht, hconf1, htx⟩ := ih (s := afterFailedAnt s) hphase hacc hv
      rw [transactions_afterFailedAnt] at htx
      refine ⟨t, ?_, hconf1, htx⟩
      rw [List.map_cons, presentAll, exec_ant, changeAntennaMode_failed sel hphase hacc]
      exact ht
    | true =>
      obtain ⟨t, ht, hconf1, htx⟩ := ih (s := afterAnt sel v s) hphase hacc rfl
      rw [transactions_afterAnt] at htx
      refine ⟨t, ?_, hconf1, by simp [htx]; omega⟩
      rw [List.map_cons, presentAll, exec_ant_true hphase hacc hv]
      exact ht

/-- The last success decides: each change leaves the bits outside the mask, and overwrites those inside. -/
theorem foldl_conf1After {p : Params} (hw2 : p.W2) {v : Word32}
    (hout : v &&& ~~~p.lnaMask = p.initConf1 &&& ~~~p.lnaMask) (cmds : List (Bool × Nat)) :
    cmds.foldl (conf1After p) v &&& ~~~p.lnaMask = p.initConf1 &&& ~~~p.lnaMask ∧
    cmds.foldl (conf1After p) v =
      ((cmds.filter fun c => c.1).getLast?).elim v fun c => newConf1 p p.initConf1 c.2 := by
  induction cmds using List.reverseRecOn with
  | nil => exact ⟨hout, rfl⟩
  | append_singleton cmds c ih =>
    obtain ⟨ihout, ihlast⟩ := ih
    obtain ⟨ok, sel⟩ := c
    rw [List.foldl_append, List.filter_append]
    cases ok with
    | false =>
      have hnone : [(false, sel)].filter (fun c => c.1) = [] := rfl
      rw [hnone, List.append_nil]
      exact ⟨ihout, ihlast⟩
    | true =>
      refine ⟨(newConf1_and_not_mask hw2 _ _).trans ihout, ?_⟩
      simpa [conf1After] using newConf1_eq_of_and_not_mask ihout sel

/-- Settles O45: CONF1 follows the sequence, and by the invariant starts with INIT's bits outside the
mask. -/
theorem lastSuccessfulAntWins : Obligations.LastSuccessfulAntWins := by
  intro s v cmds hinv hwf hacc hphase hv
  obtain ⟨-, w, hw, hout, -⟩ := hinv.shadowsHoldConstants hwf (by simp [hphase])
  obtain rfl : v = w := Option.some.inj (hv.symm.trans hw)
  obtain ⟨t, ht, hconf1, htx⟩ := presentAll_ants cmds hphase hacc hv
  obtain ⟨-, hw2, -⟩ := hwf
  refine ⟨t, ht, ?_, htx⟩
  rw [hconf1, (foldl_conf1After hw2 hout cmds).2]
  cases (cmds.filter fun c => c.1).getLast? <;> rfl

end Sys2Proof.Machine
end

section
/-! What no command reads (10_state.md section 3, 90_conflicts.md C3): two runs that differ in the ghost
LASTTX, or in whether the notice is kept, go hand in hand. -/

namespace Sys2Proof.Machine

open Sys2Proof.Safety

/-! ### The ghost LASTTX (R25) -/

/-- `s` with another ghost. -/
def withGhost (g : LastTx) (s : State) : State := { s with lastTx := g }

/-- With another ghost a command has its effect, but for the ghost. -/
theorem Effect.exists_withGhost {i : Instr} {s t : State} (heff : Effect i s t) (g : LastTx) :
    ∃ g', Effect i (withGhost g s) (withGhost g' t) := by
  cases heff with
  | refused hrefused => exact ⟨g, .refused (s := withGhost g s) hrefused⟩
  | wr hphase => exact ⟨_, .wr (s := withGhost g s) hphase⟩
  | init hphase => exact ⟨_, .init (s := withGhost g s) hphase⟩
  | hook hphase => exact ⟨g, .hook (s := withGhost g s) hphase⟩
  | failedAnt hphase => exact ⟨g, .failedAnt (s := withGhost g s) hphase⟩
  | ant hphase hold => exact ⟨_, .ant (s := withGhost g s) hphase hold⟩

theorem presentAll_withGhost {cs : List Instr} (hcmd : ∀ c ∈ cs, c.isCommand = true) {s t : State}
    (hacc : ServicesAccept s) (g : LastTx) (h : presentAll cs s = .next t) :
    ∃ g', presentAll cs (withGhost g s) = .next (withGhost g' t) := by
  induction cs generalizing s g with
  | nil =>
    cases h
    exact ⟨g, rfl⟩
  | cons c cs ih =>
    obtain ⟨hc, hrest⟩ := List.forall_mem_cons.1 hcmd
    obtain ⟨u, hu, ht⟩ := andThen_eq_next.1 h
    have heff := Effect.of_exec hc hacc hu
    obtain ⟨g', heff'⟩ := heff.exists_withGhost g
    obtain ⟨g'', ht'⟩ := ih hrest (heff.stallAfter_eq.trans hacc) g' ht
    exact ⟨g'', by rw [presentAll, heff'.exec_eq hacc, andThen_next, ht']⟩

theorem storesSelection_withGhost (i : Instr) (g : LastTx) (s : State) :
    storesSelection i (withGhost g s) = withGhost g (storesSelection i s) := by
  cases i with
  | ants c =>
    change (if _ then _ else _) = withGhost g (if _ then _ else _)
    split_ifs <;> rfl
  | _ => rfl

theorem exec_withGhost {i : Instr} {s t : State} (hacc : ServicesAccept s) (g : LastTx)
    (h : exec i s = .next t) : ∃ g', exec i (withGhost g s) = .next (withGhost g' t) := by
  rw [exec_eq_presentAll] at h
  obtain ⟨g', hg'⟩ := presentAll_withGhost (isCommand_of_mem_expand _ i)
    ((storesSelection_stallAfter i s).trans hacc) g h
  refine ⟨g', ?_⟩
  rw [exec_eq_presentAll, storesSelection_withGhost]
  exact hg'

/-- Settles O50: with the budget lifted the two runs emit the same events, so that these fit the budget of
one as of the other. -/
theorem ghostIsNeverRead : Obligations.GhostIsNeverRead := by
  intro i s t g h
  obtain ⟨u, es, hu, htrace, hfits⟩ := exec_lifted_of_next h
  obtain ⟨g', hg'⟩ := exec_withGhost rfl g hu
  obtain rfl := Host.Outcome.next.inj (h.symm.trans (exec_of_lifted hu htrace hfits))
  exact ⟨_, exec_of_lifted (s := withGhost g s) hg' htrace hfits, rfl⟩

/-! ### The notice (R104, C3) -/

/-- The events but for the notices. -/
def withoutNotices (es : List Event) : List Event :=
  es.filter fun e => match e with | .notice _ => false | _ => true

@[simp] theorem withoutNotices_append (a b : List Event) :
    withoutNotices (a ++ b) = withoutNotices a ++ withoutNotices b := List.filter_append a b

@[simp] theorem withoutNotices_tx (p : Params) (w : Nat) : withoutNotices (tx p w) = tx p w := rfl

@[simp] theorem withoutNotices_noticeOf (p : Params) (sel : Nat) : withoutNotices (noticeOf p sel) = [] := by
  unfold noticeOf
  split <;> rfl

/-- `s` with `MODEL_NOTICE` at `b` and the trace `tr`. -/
def withNotice (b : Bool) (tr : List Event) (s : State) : State :=
  { s with params := { s.params with modelNotice := b }, trace := tr }

theorem withNotice_eq {s : State} {p : Params} {b : Bool} (hparams : s.params = { p with modelNotice := b })
    (b' : Bool) (tr : List Event) :
    withNotice b' tr s = { s with params := { p with modelNotice := b' }, trace := tr } := by
  rw [withNotice, hparams]

/-- With the notice off a command has its effect on any trace, less its notices. -/
theorem Effect.exists_muted {i : Instr} {s t : State} (heff : Effect i s t) :
    ∃ es, t.trace = s.trace ++ es ∧ ∀ tr,
      Effect i (withNotice false tr s) (withNotice false (tr ++ withoutNotices es) t) := by
  cases heff with
  | refused hrefused =>
    refine ⟨[], (List.append_nil _).symm, fun tr => ?_⟩
    rw [withoutNotices, List.filter_nil, List.append_nil]
    exact .refused (s := withNotice false tr s) hrefused
  | @wr a p s hphase =>
    refine ⟨_, List.append_assoc _ _ _, fun tr => ?_⟩
    have hmuted : afterWr a p (withNotice false tr s) = withNotice false
        (tr ++ withoutNotices (tx s.params (wireNumber a p) ++ [.done .success])) (afterWr a p s) := by
      rw [withoutNotices_append, withoutNotices_tx, ← List.append_assoc]
      rfl
    rw [← hmuted]
    exact .wr hphase
  | init hphase => exact ⟨_, rfl, fun tr => .init (s := withNotice false tr s) hphase⟩
  | hook hphase => exact ⟨_, rfl, fun tr => .hook (s := withNotice false tr s) hphase⟩
  | failedAnt hphase => exact ⟨_, rfl, fun tr => .failedAnt (s := withNotice false tr s) hphase⟩
  | @ant sel old s hphase hold =>
    refine ⟨_, afterAnt_trace _ _ _, fun tr => ?_⟩
    have hmuted : afterAnt sel old (withNotice false tr s) = withNotice false
        (tr ++ withoutNotices (antEvents s.params old sel)) (afterAnt sel old s) := by
      rw [antEvents, withoutNotices_append, withoutNotices_append, withoutNotices_tx,
        withoutNotices_noticeOf, List.append_nil, ← List.append_assoc, ← List.append_nil (tr ++ _)]
      rfl
    rw [← hmuted]
    exact .ant hphase hold

theorem presentAll_muted {cs : List Instr} (hcmd : ∀ c ∈ cs, c.isCommand = true) {s t : State}
    (hacc : ServicesAccept s) (h : presentAll cs s = .next t) :
    ∃ es, t.trace = s.trace ++ es ∧ ∀ tr, presentAll cs (withNotice false tr s) =
      .next (withNotice false (tr ++ withoutNotices es) t) := by
  induction cs generalizing s with
  | nil =>
    cases h
    exact ⟨[], (List.append_nil _).symm, fun tr => by simp [presentAll, withoutNotices]⟩
  | cons c cs ih =>
    obtain ⟨hc, hrest⟩ := List.forall_mem_cons.1 hcmd
    obtain ⟨u, hu, ht⟩ := andThen_eq_next.1 h
    have heff := Effect.of_exec hc hacc hu
    obtain ⟨es, hes, hmuted⟩ := heff.exists_muted
    obtain ⟨es', hes', hmuted'⟩ := ih hrest (heff.stallAfter_eq.trans hacc) ht
    refine ⟨es ++ es', by rw [hes', hes, List.append_assoc], fun tr => ?_⟩
    rw [presentAll, (hmuted tr).exec_eq hacc, andThen_next, hmuted', withoutNotices_append,
      List.append_assoc]

theorem storesSelection_withNotice (i : Instr) (b : Bool) (tr : List Event) (s : State) :
    storesSelection i (withNotice b tr s) = withNotice b tr (storesSelection i s) := by
  cases i with
  | ants c =>
    change (if _ then _ else _) = withNotice b tr (if _ then _ else _)
    split_ifs <;> rfl
  | _ => rfl

theorem exec_muted {i : Instr} {s t : State} {es : List Event} (hacc : ServicesAccept s)
    (h : exec i s = .next t) (htrace : t.trace = s.trace ++ es) (tr : List Event) :
    exec i (withNotice false tr s) = .next (withNotice false (tr ++ withoutNotices es) t) := by
  rw [exec_eq_presentAll] at h
  obtain ⟨es', htrace', hmuted⟩ := presentAll_muted (isCommand_of_mem_expand _ i)
    ((storesSelection_stallAfter i s).trans hacc) h
  rw [storesSelection_trace] at htrace'
  obtain rfl : es = es' := List.append_cancel_left (htrace.symm.trans htrace')
  rw [exec_eq_presentAll, storesSelection_withNotice]
  exact hmuted tr

theorem exec_params {i : Instr} {s t : State} (h : exec i s = .next t) : t.params = s.params :=
  Along.of_exec (R := fun s t => t.params = s.params) ⟨fun _ => rfl, fun h h' => h'.trans h⟩
    (fun _ _ => rfl) (fun _ _ _ _ _ heff => heff.params_eq) h

/-- Settles O51: each command's effect with the notice off is its effect less its notices. -/
theorem noticeChangesNothingElse : Obligations.NoticeChangesNothingElse := by
  intro i s t es hacc h htrace
  exact (exec_muted (s := { s with params := { s.params with modelNotice := true } })
    hacc h htrace s.trace).trans (congrArg _ (withNotice_eq (exec_params h) _ _))

end Sys2Proof.Machine
end
